-- ==== Sys2Proof/Word.lean ====
section
/-! DEFINITION. The word types of the block: the 32-bit command and host-register word, its fields, the 16-bit data value
(spec/00_scope.md R8, spec/30_encoding.md R70). A line level is a `Bool`: `true` is 1, high; `false` is 0, low. -/

namespace Sys2Proof

/-- A command word, and the value of a host register (R70, R34, R35, R37). -/
abbrev Word := BitVec 32

/-- A 16-bit value: the operand `imm`, the shift registers, `result` (R31, R33, R70). -/
abbrev Half := BitVec 16

/-- An 8-bit field of a command word: `op`, `fmt` (R70). -/
abbrev Octet := BitVec 8

end Sys2Proof
end

