-- ==== Sys2Proof/Syntax.lean ====
section
/-! DEFINITION. The commands of the block: one constructor per row of spec/opcode_table.json (spec/30_encoding.md R73), the
reasons a word is illegal (R74) and the pseudo-instructions (R76). -/

namespace Sys2Proof

/-- The commands. An operand is `imm` as a 16-bit value (R71); for `shift8` and `irShift` the eight bits above the operand
are zero in every word, which `Instr.WellFormed` checks. -/
inductive Instr where
  | clrTms
  | setTms
  | clrTdi
  | setTdi
  | clrTck
  | setTck
  | clrTclk
  | setTclk
  | clrRst
  | setRst
  | clrTst
  | setTst
  | scanTdo
  | delayUs (n : Half)
  | delayMs (n : Half)
  | shift8 (d : Half)
  | shift16 (d : Half)
  | drShift16 (d : Half)
  | irShift (i : Half)
  | resetTap
deriving DecidableEq, Repr

/-- Why a word matches no row: the five classes of R74, the first that applies. -/
inductive IllegalClass where
  /-- R74.1: `op` is none of the nineteen values. -/
  | unknownOp
  /-- R74.2: `op` is 0x40 and `fmt` is neither 8 nor 16. -/
  | badFormat
  /-- R74.3: `op` is not 0x40 and `fmt` is not 0. -/
  | fmtNotZero
  /-- R74.4: a command without an operand has `imm` not 0. -/
  | immNotZero
  /-- R74.5: an eight-bit operand has `imm[15:8]` not 0. -/
  | operandTooWide
deriving DecidableEq, Repr

/-- The two pseudo-instructions of R76. -/
inductive Pseudo where
  | pulseTck
  | shift (format : Nat) (d : Half)
deriving DecidableEq, Repr

end Sys2Proof
end

