-- ==== Sys2Proof/WellFormed.lean ====
section
/-! DEFINITION. Which commands a command word can carry: an eight-bit operand has its upper half zero (R71, R74.5, R75).
Every other operand range is the range of its type. -/

namespace Sys2Proof

/-- The operand range of R75, as a check that computes. -/
def Instr.wellFormed : Instr → Bool
  | .shift8 d => d.extractLsb' 8 8 == 0#8
  | .irShift i => i.extractLsb' 8 8 == 0#8
  | .clrTms | .setTms | .clrTdi | .setTdi | .clrTck | .setTck | .clrTclk | .setTclk => true
  | .clrRst | .setRst | .clrTst | .setTst | .scanTdo | .delayUs _ | .delayMs _ => true
  | .shift16 _ | .drShift16 _ | .resetTap => true

/-- A command that some word encodes. -/
abbrev Instr.WellFormed (i : Instr) : Prop := i.wellFormed = true

end Sys2Proof
end

