-- ==== Sys2Proof/Decode.lean ====
section
/-! DEFINITION. The decoder and the encoder of the 32-bit command word (spec/30_encoding.md R70 to R74), the mnemonics and
the pseudo-instructions (R75, R76). Decoding is total: a word is a command or is rejected under the name of its class. -/

namespace Sys2Proof

/-- R70: bits 31:24. -/
def opField (w : Word) : Octet := w.extractLsb' 24 8

/-- R70: bits 23:16. -/
def fmtField (w : Word) : Octet := w.extractLsb' 16 8

/-- R70: bits 15:0. -/
def immField (w : Word) : Half := w.extractLsb' 0 16

/-- `imm_lo` of R72, bits 7:0, as an unsigned 16-bit operand (R71). -/
def immLoField (w : Word) : Half := (w.extractLsb' 0 8).setWidth 16

/-- A row of the opcode table: the word matches when `w & mask = value`; `build` cuts the operand from it. -/
structure OpcodeRow where
  mnemonic : String
  value : Word
  mask : Word
  build : Word → Instr

/-- R72: the test of one row. -/
def OpcodeRow.matchesWord (r : OpcodeRow) (w : Word) : Bool := w &&& r.mask == r.value

/-- The rows of group 1, in the table's order (R73: `op[3:1]` is the line, `op[0]` the level). -/
def lineRows : List OpcodeRow :=
  [ ⟨"CLR_TMS", 0x10000000#32, 0xFFFFFFFF#32, fun _ => .clrTms⟩,
    ⟨"SET_TMS", 0x11000000#32, 0xFFFFFFFF#32, fun _ => .setTms⟩,
    ⟨"CLR_TDI", 0x12000000#32, 0xFFFFFFFF#32, fun _ => .clrTdi⟩,
    ⟨"SET_TDI", 0x13000000#32, 0xFFFFFFFF#32, fun _ => .setTdi⟩,
    ⟨"CLR_TCK", 0x14000000#32, 0xFFFFFFFF#32, fun _ => .clrTck⟩,
    ⟨"SET_TCK", 0x15000000#32, 0xFFFFFFFF#32, fun _ => .setTck⟩,
    ⟨"CLR_TCLK", 0x16000000#32, 0xFFFFFFFF#32, fun _ => .clrTclk⟩,
    ⟨"SET_TCLK", 0x17000000#32, 0xFFFFFFFF#32, fun _ => .setTclk⟩,
    ⟨"CLR_RST", 0x18000000#32, 0xFFFFFFFF#32, fun _ => .clrRst⟩,
    ⟨"SET_RST", 0x19000000#32, 0xFFFFFFFF#32, fun _ => .setRst⟩,
    ⟨"CLR_TST", 0x1A000000#32, 0xFFFFFFFF#32, fun _ => .clrTst⟩,
    ⟨"SET_TST", 0x1B000000#32, 0xFFFFFFFF#32, fun _ => .setTst⟩ ]

/-- The rows of the other groups, in the table's order (R73). -/
def otherRows : List OpcodeRow :=
  [ ⟨"SCAN_TDO", 0x20000000#32, 0xFFFFFFFF#32, fun _ => .scanTdo⟩,
    ⟨"DELAY_US", 0x30000000#32, 0xFFFF0000#32, fun w => .delayUs (immField w)⟩,
    ⟨"DELAY_MS", 0x31000000#32, 0xFFFF0000#32, fun w => .delayMs (immField w)⟩,
    ⟨"SHIFT.8", 0x40080000#32, 0xFFFFFF00#32, fun w => .shift8 (immLoField w)⟩,
    ⟨"SHIFT.16", 0x40100000#32, 0xFFFF0000#32, fun w => .shift16 (immField w)⟩,
    ⟨"DR_SHIFT16", 0x41000000#32, 0xFFFF0000#32, fun w => .drShift16 (immField w)⟩,
    ⟨"IR_SHIFT", 0x42000000#32, 0xFFFFFF00#32, fun w => .irShift (immLoField w)⟩,
    ⟨"RESET_TAP", 0x50000000#32, 0xFFFFFFFF#32, fun _ => .resetTap⟩ ]

/-- The twenty rows of spec/opcode_table.json, in its order. -/
def opcodeRows : List OpcodeRow := lineRows ++ otherRows

/-- The nineteen values of `op` that name an operation (R74.1). -/
def knownOps : List Octet :=
  [0x10#8, 0x11#8, 0x12#8, 0x13#8, 0x14#8, 0x15#8, 0x16#8, 0x17#8, 0x18#8, 0x19#8, 0x1A#8, 0x1B#8,
    0x20#8, 0x30#8, 0x31#8, 0x40#8, 0x41#8, 0x42#8, 0x50#8]

/-- The values of `op` whose operation has no operand: group 1, 0x20 and 0x50 (R74.4). -/
def operandlessOps : List Octet :=
  [0x10#8, 0x11#8, 0x12#8, 0x13#8, 0x14#8, 0x15#8, 0x16#8, 0x17#8, 0x18#8, 0x19#8, 0x1A#8, 0x1B#8,
    0x20#8, 0x50#8]

/-- The class of a word that matches no row: the first of R74's five that applies (log entry 25). -/
def illegalClass (w : Word) : IllegalClass :=
  if opField w ∉ knownOps then .unknownOp
  else if opField w = 0x40#8 ∧ fmtField w ≠ 0x08#8 ∧ fmtField w ≠ 0x10#8 then .badFormat
  else if opField w ≠ 0x40#8 ∧ fmtField w ≠ 0#8 then .fmtNotZero
  else if opField w ∈ operandlessOps then .immNotZero
  else .operandTooWide

/-- R72: the row that matches gives the command; a word that matches none is illegal. -/
def decode (w : Word) : Except IllegalClass Instr :=
  match opcodeRows.find? (fun r => r.matchesWord w) with
  | some r => .ok (r.build w)
  | none => .error (illegalClass w)

/-- The decoder as the opcode table numbers bits: an instruction is one 32-bit word, whose bits above `nbits` are 0.
No command is longer than 32 bits. -/
def decodeTableWord (nbits w : Nat) : Option Instr :=
  if nbits ≤ 32 then
    match decode (BitVec.ofNat 32 (w % 2 ^ nbits)) with
    | .ok i => some i
    | .error _ => none
  else none

/-- The `op` of a command (R73). -/
def opcodeOf : Instr → Octet
  | .clrTms => 0x10#8
  | .setTms => 0x11#8
  | .clrTdi => 0x12#8
  | .setTdi => 0x13#8
  | .clrTck => 0x14#8
  | .setTck => 0x15#8
  | .clrTclk => 0x16#8
  | .setTclk => 0x17#8
  | .clrRst => 0x18#8
  | .setRst => 0x19#8
  | .clrTst => 0x1A#8
  | .setTst => 0x1B#8
  | .scanTdo => 0x20#8
  | .delayUs _ => 0x30#8
  | .delayMs _ => 0x31#8
  | .shift8 _ => 0x40#8
  | .shift16 _ => 0x40#8
  | .drShift16 _ => 0x41#8
  | .irShift _ => 0x42#8
  | .resetTap => 0x50#8

/-- The `fmt` of a command: the format of a `SHIFT`, else 0 (R70). -/
def formatOf : Instr → Octet
  | .shift8 _ => 0x08#8
  | .shift16 _ => 0x10#8
  | .clrTms | .setTms | .clrTdi | .setTdi | .clrTck | .setTck | .clrTclk | .setTclk => 0#8
  | .clrRst | .setRst | .clrTst | .setTst | .scanTdo | .delayUs _ | .delayMs _ => 0#8
  | .drShift16 _ | .irShift _ | .resetTap => 0#8

/-- The `imm` of a command: its operand, else 0 (R70). -/
def operandOf : Instr → Half
  | .delayUs n => n
  | .delayMs n => n
  | .shift8 d => d
  | .shift16 d => d
  | .drShift16 d => d
  | .irShift i => i
  | .clrTms | .setTms | .clrTdi | .setTdi | .clrTck | .setTck | .clrTclk | .setTclk => 0#16
  | .clrRst | .setRst | .clrTst | .setTst | .scanTdo | .resetTap => 0#16

/-- The word of a command: `op`, `fmt`, `imm` from the top (R70). -/
def encode (i : Instr) : Word := opcodeOf i ++ formatOf i ++ operandOf i

/-- R75: the mnemonic of a command. -/
def mnemonicOf : Instr → String
  | .clrTms => "CLR_TMS"
  | .setTms => "SET_TMS"
  | .clrTdi => "CLR_TDI"
  | .setTdi => "SET_TDI"
  | .clrTck => "CLR_TCK"
  | .setTck => "SET_TCK"
  | .clrTclk => "CLR_TCLK"
  | .setTclk => "SET_TCLK"
  | .clrRst => "CLR_RST"
  | .setRst => "SET_RST"
  | .clrTst => "CLR_TST"
  | .setTst => "SET_TST"
  | .scanTdo => "SCAN_TDO"
  | .delayUs _ => "DELAY_US"
  | .delayMs _ => "DELAY_MS"
  | .shift8 _ => "SHIFT.8"
  | .shift16 _ => "SHIFT.16"
  | .drShift16 _ => "DR_SHIFT16"
  | .irShift _ => "IR_SHIFT"
  | .resetTap => "RESET_TAP"

/-- R75: the commands that are written with an operand. -/
def hasOperand : Instr → Bool
  | .delayUs _ | .delayMs _ | .shift8 _ | .shift16 _ | .drShift16 _ | .irShift _ => true
  | .clrTms | .setTms | .clrTdi | .setTdi | .clrTck | .setTck | .clrTclk | .setTclk => false
  | .clrRst | .setRst | .clrTst | .setTst | .scanTdo | .resetTap => false

/-- R75: one line of assembly, the mnemonic and the operand as a number. -/
def assemblyLine (i : Instr) : String :=
  if hasOperand i then mnemonicOf i ++ " " ++ toString (operandOf i).toNat else mnemonicOf i

/-- R76: the expansion of a pseudo-instruction; none is the assembly error. -/
def expandPseudo : Pseudo → Option (List Instr)
  | .pulseTck => some [.clrTck, .setTck]
  | .shift format d =>
    if format = 8 then some [.shift8 d] else if format = 16 then some [.shift16 d] else none

/-! Reading assembly text (R75, R76), on lists of characters. -/

/-- The value of a digit in bases up to 16. -/
def digitValue (base : Nat) (c : Char) : Option Nat :=
  let v :=
    if 48 ≤ c.toNat ∧ c.toNat ≤ 57 then c.toNat - 48
    else if 97 ≤ c.toNat ∧ c.toNat ≤ 102 then c.toNat - 87
    else if 65 ≤ c.toNat ∧ c.toNat ≤ 70 then c.toNat - 55
    else base
  if v < base then some v else none

/-- The value of some digits, after those already read. -/
def digitsValue (base acc : Nat) : List Char → Option Nat
  | [] => some acc
  | c :: cs =>
    match digitValue base c with
    | some v => digitsValue base (acc * base + v) cs
    | none => none

/-- A number in C notation (R75): `0x` for hexadecimal, a leading 0 for octal, else decimal (log entry 26). -/
def numberValue : List Char → Option Nat
  | [] => none
  | '0' :: 'x' :: c :: cs => digitsValue 16 0 (c :: cs)
  | '0' :: 'X' :: c :: cs => digitsValue 16 0 (c :: cs)
  | '0' :: cs => digitsValue 8 0 cs
  | c :: cs => digitsValue 10 0 (c :: cs)

/-- The words of a line: blanks part them, a comma is one by itself, a semicolon ends the line (R75). `part` is the word being
read, last character first. -/
def lineWords (part : List Char) : List Char → List (List Char)
  | [] => if part = [] then [] else [part.reverse]
  | c :: cs =>
    let done := if part = [] then [] else [part.reverse]
    if c = ';' then done
    else if c = ',' then done ++ [[',']] ++ lineWords [] cs
    else if c = ' ' ∨ c = '\t' then done ++ lineWords [] cs
    else lineWords (c :: part) cs

/-- The commands without an operand, by mnemonic. -/
def plainCommands : List Instr :=
  [.clrTms, .setTms, .clrTdi, .setTdi, .clrTck, .setTck, .clrTclk, .setTclk, .clrRst, .setRst, .clrTst, .setTst,
    .scanTdo, .resetTap]

/-- The commands with an operand, by mnemonic. -/
def operandCommands (n : Half) : List Instr :=
  [.delayUs n, .delayMs n, .shift8 n, .shift16 n, .drShift16 n, .irShift n]

/-- The commands of a line are accepted when each is in its range (R75). -/
def inRange (is : List Instr) : Option (List Instr) := if is.all Instr.wellFormed then some is else none

/-- One line of assembly (R75, R76): the commands it stands for; none is an assembly error. A line of blanks and comment stands for
no command. -/
def assembleLine (line : List Char) : Option (List Instr) :=
  match lineWords [] line with
  | [] => some []
  | [m] =>
    if m = "PULSE_TCK".toList then expandPseudo .pulseTck
    else
      match plainCommands.find? (fun i => m == (mnemonicOf i).toList) with
      | some i => some [i]
      | none => none
  | [m, n] =>
    match numberValue n with
    | some v =>
      match (operandCommands (BitVec.ofNat 16 v)).find? (fun i => m == (mnemonicOf i).toList) with
      | some i => if v < 2 ^ 16 then inRange [i] else none
      | none => none
    | none => none
  | [m, f, [','], d] =>
    match numberValue f, numberValue d with
    | some fv, some dv =>
      if m = "SHIFT".toList ∧ dv < 2 ^ 16 then (expandPseudo (.shift fv (BitVec.ofNat 16 dv))).bind inRange else none
    | _, _ => none
  | _ => none

end Sys2Proof
end

