-- ==== Sys2Proof/Config.lean ====
section
/-! DEFINITION. What a platform fixes or leaves open: the lines and signals, the pin map of the GPIO triple and the addresses
(R5, R64), and the free values (opaque constants without a body: no proof can see what they are). -/

namespace Sys2Proof

/-- The five output lines of the block (R21). TCLK is none of its own (R22). -/
inductive Line where
  | tms
  | tdi
  | tck
  | rst
  | tst
deriving DecidableEq, Repr

/-- The six signal names the set and clear commands use (R4 `SIGNALS`, R73). -/
inductive Signal where
  | tms
  | tdi
  | tck
  | tclk
  | rst
  | tst
deriving DecidableEq, Repr

/-- The platform's GPIO port: its width, 32 unless given, and the bit of each signal (R5). An argument of the GPIO view, never
state. -/
structure PinMap where
  width : Nat := 32
  tms : Nat
  tdi : Nat
  tck : Nat
  tdo : Nat
  rst : Nat
  tst : Nat
deriving DecidableEq, Repr

/-- R5: `GPIO_WIDTH` is at least 6, every pin is below it, and the six pins are pairwise distinct. -/
abbrev PinMap.Wf (p : PinMap) : Prop :=
  6 ≤ p.width ∧ (∀ b ∈ [p.tms, p.tdi, p.tck, p.tdo, p.rst, p.tst], b < p.width) ∧
    [p.tms, p.tdi, p.tck, p.tdo, p.rst, p.tst].Nodup

/-- The platform's addresses: `HOST_BASE`, `GPIO_BASE`, and the offsets of the GPIO triple from the latter (R5, R64). An argument of
the bus views, never state. -/
structure AddressMap where
  hostBase : Nat
  gpioBase : Nat
  gpioSet : Nat
  gpioClr : Nat
  gpioIn : Nat
deriving DecidableEq, Repr

/-- The three registers of the GPIO triple have addresses of their own (D26). -/
abbrev AddressMap.Wf (m : AddressMap) : Prop := [m.gpioSet, m.gpioClr, m.gpioIn].Nodup

/-- The TDO level at the `n`-th draw of a free value, when no answer of the target is listed (R23, D25, log entry 1). -/
opaque Config.freeTdo : Nat → Bool

/-- The level an output latch holds after the reset input, at draw `n` (R21, R39, log entry 12). -/
opaque Config.resetLine : Line → Nat → Bool

/-- The level `tclk_latch` holds after the reset input, at draw `n` (R25, R39, log entry 12). -/
opaque Config.resetTclkLatch : Nat → Bool

/-- The value `result` holds after the reset input, at draw `n` (R31, R39, log entry 12). -/
opaque Config.resetResult : Nat → Half

/-- The values the hidden `so` and `si` hold after the reset input, at draw `n` (R33, R39, log entry 12). -/
opaque Config.resetSo : Nat → Half

@[inherit_doc Config.resetSo]
opaque Config.resetSi : Nat → Half

/-- The value the hidden `cnt` holds after the reset input, at draw `n` (R33, R39, log entry 12). -/
opaque Config.resetCnt : Nat → BitVec 5

end Sys2Proof
end

