-- ==== Sys2Proof/Machine/State.lean ====
section
/-! DEFINITION. The state of the block as plain data (spec/10_state.md R20 to R39), the pin events (spec/00_scope.md R7), the
micro-steps commands are made of (R9, R90 to R92, R105, R120 to R122), the moves of the host, the two reason types and the
state after reset. -/

namespace Sys2Proof.Machine

/-- The sixteen states of the TAP copy, in the order of their numbers 0 to 15 (R26). -/
inductive Tap where
  | testLogicReset
  | runTestIdle
  | selectDrScan
  | captureDr
  | shiftDr
  | exit1Dr
  | pauseDr
  | exit2Dr
  | updateDr
  | selectIrScan
  | captureIr
  | shiftIr
  | exit1Ir
  | pauseIr
  | exit2Ir
  | updateIr
deriving DecidableEq, Repr

/-- The observable pin events of R7. `set` and `clr` are one write of a one-hot mask to the Set-Output or Clear-Output register,
`rd` one read of the Read-Input register with the level of TDO, the waits one call of the platform delay. -/
inductive PinEvent where
  | set (l : Line)
  | clr (l : Line)
  | rd (v : Bool)
  | waitUs (n : Nat)
  | waitMs (n : Nat)
deriving DecidableEq, Repr

/-- The `format` of a shift: `FORMATS` is 8 or 16 (R4, R122). -/
inductive ShiftFormat where
  | eight
  | sixteen
deriving DecidableEq, Repr

/-- One micro-step of a command (R10): nothing of the host's lands inside one (log entry 22). -/
inductive MicroStep where
  /-- `SetLine(X)`, R90. -/
  | setLine (l : Line)
  /-- `ClrLine(X)`, R91. -/
  | clrLine (l : Line)
  /-- `Delay_us(n)`, R106. -/
  | delayUs (n : Nat)
  /-- `Delay_ms(n)`, R107. -/
  | delayMs (n : Nat)
  /-- `result <- zext_16(Sample())`, R108. -/
  | scanTdo
  /-- `SaveTCLK()`, R120. -/
  | saveTclk
  /-- R122 step 2: `so <- data`, `si <- 0`, `cnt <- format`. -/
  | loadShift (format : ShiftFormat) (data : Half)
  /-- R122 step 3a for bit `i`: TDI takes `so[i]`. -/
  | driveBit (i : Nat)
  /-- R122 step 3d: `si <- (si << 1) | zext_16(Sample())`. -/
  | sampleBit
  /-- R122 step 3e: `cnt <- cnt - 1`. -/
  | countBit
  /-- `RestoreTCLK()`, R121. -/
  | restoreTclk
  /-- R122 step 8: `result <- si`. -/
  | storeResult
deriving DecidableEq, Repr

/-- What the outside world does to the block: an access of the host space at an offset from `HOST_BASE` (below it a
negative one), so many bits wide
(R34, R35, R37, R56), or the reset input (R180). -/
inductive HostAction where
  | read (offset : Int) (width : Nat)
  | write (offset : Int) (width : Nat) (value : Word)
  | reset
deriving DecidableEq, Repr

/-- A move of the host still to come. `early` is none for a host that waits for the running command to end (R168);
`some k` lands `k` micro-steps after the move before it, in the middle of a command if that is not finished by then (R162). -/
structure HostMove where
  early : Option Nat
  action : HostAction
deriving DecidableEq, Repr

/-- Who answers a TDO sample: the target, with its answers to come (none listed: a free value each), or the wire of the
loopback rig (R23, R128). -/
inductive TdoSource where
  | target (answers : List Bool)
  | loopback
deriving DecidableEq, Repr

/-- The state of the block (R20) and, after it, the model's own record of what goes in and out. -/
structure State where
  /-- `out.TMS` (R21). -/
  outTms : Bool
  /-- `out.TDI`, which is also the TCLK level (R21, R22). -/
  outTdi : Bool
  /-- `out.TCK` (R21). -/
  outTck : Bool
  /-- `out.RST` (R21, R24). -/
  outRst : Bool
  /-- `out.TST` (R21, R24). -/
  outTst : Bool
  /-- `tclk_latch` (R25). -/
  tclkLatch : Bool
  /-- `tap` (R26). -/
  tap : Tap
  /-- `result` (R31). -/
  result : Half
  /-- `err` (R32). -/
  err : Bool
  /-- `busy` (R32). -/
  busy : Bool
  /-- Hidden `so`: the data still to send (R33). -/
  so : Half
  /-- Hidden `si`: the TDO bits received so far (R33). -/
  si : Half
  /-- Hidden `cnt`: the bits still to go (R33). -/
  cnt : BitVec 5
  /-- The micro-step position: what is left of the running command (R33). -/
  micro : List MicroStep
  /-- Model's own, an input: the host's moves to come, first first (log entry 6). -/
  hostQueue : List HostMove
  /-- Model's own, an output: what the host's reads returned, oldest first (log entry 7). -/
  hostReads : List Word
  /-- Model's own, an output: the pin events emitted, oldest first (R7, R58, log entry 8). -/
  events : List PinEvent
  /-- Model's own, an input: what answers the samples to come (R23, log entry 1). -/
  tdoSource : TdoSource
  /-- Model's own: how many free values have been drawn (log entry 1). -/
  draws : Nat
deriving DecidableEq, Repr

/-- The block raises no exception and nothing in it hangs or traps (R160): there is no fault. Safe. -/
inductive Fault where
deriving DecidableEq, Repr

/-- Reasons a step gives no meaning to what was asked. -/
inductive Refusal where
  /-- Raised by `exec` for a command that has no meaning yet; no arm does. Safe: the run stops. -/
  | notModelled (mnemonic : String)
  /-- Raised by `hostAct` for a host access that is not 32 bits wide or at none of the three offsets, to which R56 and U9 give
  no meaning. Safe: the run stops. -/
  | unsupportedHostAccess
deriving DecidableEq, Repr

/-- The block right after power-on (R39, R180): `tap` Test-Logic-Reset, `err` and `busy` 0, no command pending or running. The
registers R39 leaves unspecified hold 0 (DESIGN CHOICE, log entries 2 to 5); no input is listed yet (log entries 1, 6). -/
def State.reset : State where
  outTms := false
  outTdi := false
  outTck := false
  outRst := false
  outTst := false
  tclkLatch := false
  tap := .testLogicReset
  result := 0#16
  err := false
  busy := false
  so := 0#16
  si := 0#16
  cnt := 0#5
  micro := []
  hostQueue := []
  hostReads := []
  events := []
  tdoSource := .target []
  draws := 0

end Sys2Proof.Machine
end

