-- ==== Sys2Proof/Machine/Tap.lean ====
section
/-! DEFINITION. The TAP state copy: its numbering (R26), the next state (R27) and a walk along TMS levels (R29). -/

namespace Sys2Proof.Machine

/-- R26: the number of a TAP state. -/
def tapCode : Tap → BitVec 4
  | .testLogicReset => 0#4
  | .runTestIdle => 1#4
  | .selectDrScan => 2#4
  | .captureDr => 3#4
  | .shiftDr => 4#4
  | .exit1Dr => 5#4
  | .pauseDr => 6#4
  | .exit2Dr => 7#4
  | .updateDr => 8#4
  | .selectIrScan => 9#4
  | .captureIr => 10#4
  | .shiftIr => 11#4
  | .exit1Ir => 12#4
  | .pauseIr => 13#4
  | .exit2Ir => 14#4
  | .updateIr => 15#4

/-- R27: `TapNext(s, t)`, the row of `s` with its columns TMS = 0 and TMS = 1. -/
def tapNext : Tap → Bool → Tap
  | .testLogicReset, tms => if tms then .testLogicReset else .runTestIdle
  | .runTestIdle, tms => if tms then .selectDrScan else .runTestIdle
  | .selectDrScan, tms => if tms then .selectIrScan else .captureDr
  | .captureDr, tms => if tms then .exit1Dr else .shiftDr
  | .shiftDr, tms => if tms then .exit1Dr else .shiftDr
  | .exit1Dr, tms => if tms then .updateDr else .pauseDr
  | .pauseDr, tms => if tms then .exit2Dr else .pauseDr
  | .exit2Dr, tms => if tms then .updateDr else .shiftDr
  | .updateDr, tms => if tms then .selectDrScan else .runTestIdle
  | .selectIrScan, tms => if tms then .testLogicReset else .captureIr
  | .captureIr, tms => if tms then .exit1Ir else .shiftIr
  | .shiftIr, tms => if tms then .exit1Ir else .shiftIr
  | .exit1Ir, tms => if tms then .updateIr else .pauseIr
  | .pauseIr, tms => if tms then .exit2Ir else .pauseIr
  | .exit2Ir, tms => if tms then .updateIr else .shiftIr
  | .updateIr, tms => if tms then .selectDrScan else .runTestIdle

/-- The state after one rising edge per TMS level of the list, in order (R29). -/
def tapWalk (q : Tap) : List Bool → Tap
  | [] => q
  | tms :: rest => tapWalk (tapNext q tms) rest

end Sys2Proof.Machine
end

