-- ==== Sys2Proof/Machine/Flags.lean ====
section
/-! DEFINITION. The two flags (R32) and the host's views of the state: `STATUS` (R37) and `RESULT` (R35). -/

namespace Sys2Proof.Machine

/-- `err <- 1` (R161, R162); it is sticky, and only reset clears it (R166). -/
def setErr (s : State) : State := { s with err := true }

/-- A command of these micro-steps is accepted: `busy` becomes 1, and all of it is still to do (R32, R34). -/
def accept (ms : List MicroStep) (s : State) : State := { s with busy := true, micro := ms }

/-- What is left of the running command; `busy` is 1 until nothing is (R32). -/
def setLeft (ms : List MicroStep) (s : State) : State := { s with busy := !ms.isEmpty, micro := ms }

/-- R37: the layout of `STATUS`, from bit 31 down. -/
def statusWord (s : State) : Word :=
  0#18 ++ BitVec.ofBool s.outTst ++ BitVec.ofBool s.outRst ++ BitVec.ofBool s.outTck ++ BitVec.ofBool s.outTdi ++
    BitVec.ofBool s.outTms ++ BitVec.ofBool s.tclkLatch ++ tapCode s.tap ++ 0#2 ++ BitVec.ofBool s.err ++
    BitVec.ofBool s.busy

/-- R35: `RESULT`, `result` below sixteen zeros. -/
def resultWord (s : State) : Word := 0#16 ++ s.result

end Sys2Proof.Machine
end

