-- ==== Sys2Proof/Machine/Operands.lean ====
section
/-! DEFINITION. Operands and parameters: which line a signal name drives (R22), zero extension (R9), the value a shift sends,
and the numbers R4 fixes. -/

namespace Sys2Proof.Machine

/-- R22: the line a signal name drives; TCLK is carried on TDI. -/
def signalLine : Signal → Line
  | .tms => .tms
  | .tdi => .tdi
  | .tck => .tck
  | .tclk => .tdi
  | .rst => .rst
  | .tst => .tst

/-- `zext_16` of one bit (R9). -/
def zext16 (v : Bool) : Half := (BitVec.ofBool v).setWidth 16

/-- The number of data bits of a format (R4 `FORMATS`). -/
def formatBits : ShiftFormat → Nat
  | .eight => 8
  | .sixteen => 16

/-- R122 step 3d: one more TDO bit at the low end. -/
def shiftIn (si : Half) (v : Bool) : Half := (si <<< 1) ||| zext16 v

/-- R4 `RESET_PULSES`. -/
def resetPulses : Nat := 6

/-- R4 `FUSE_LOW_US`. -/
def fuseLowUs : Nat := 5

end Sys2Proof.Machine
end

