-- ==== Sys2Proof/Machine/Ops.lean ====
section
/-! DEFINITION. The shared operations: line writes (R90, R91), the TDO sample (R105), the TCLK latch (R120, R121), the shift
register (R122), running the micro-steps of a command (R10, R34), the refusal (R161, R162, R165) and the reset event (R180). -/

namespace Sys2Proof.Machine

/-- Add one event at the end of the ordered list (R7, R58). -/
def emit (e : PinEvent) (s : State) : State := { s with events := s.events ++ [e] }

/-- The level of an output latch (R21). -/
def level (s : State) : Line → Bool
  | .tms => s.outTms
  | .tdi => s.outTdi
  | .tck => s.outTck
  | .rst => s.outRst
  | .tst => s.outTst

/-- Write an output latch (R21). -/
def drive (l : Line) (v : Bool) (s : State) : State :=
  match l with
  | .tms => { s with outTms := v }
  | .tdi => { s with outTdi := v }
  | .tck => { s with outTck := v }
  | .rst => { s with outRst := v }
  | .tst => { s with outTst := v }

/-- R28: `tap <- TapNext(tap, out.TMS)`. -/
def advanceTap (s : State) : State := { s with tap := tapNext s.tap s.outTms }

/-- `SetLine(X)` (R90): the write and its event, the latch, and the TAP advance when this is a rising edge of TCK. -/
def setLine (l : Line) (s : State) : State :=
  let t := drive l true (emit (.set l) s)
  if l = .tck ∧ level s .tck = false then advanceTap t else t

/-- `ClrLine(X)` (R91): the write and its event, and the latch; no edge the block acts on. -/
def clrLine (l : Line) (s : State) : State := drive l false (emit (.clr l) s)

/-- `SetLine(X)` or `ClrLine(X)` by a level, as in R121 and R122 step 3a. -/
def writeLine (l : Line) (v : Bool) (s : State) : State := if v then setLine l s else clrLine l s

/-- The level on the TDO line now: the environment's (R23, R60). In the loopback rig the current `out.TDI` (R128); else the
target's next answer, a free value when none is listed (log entry 1). -/
def tdoLevel (s : State) : Bool :=
  match s.tdoSource with
  | .loopback => s.outTdi
  | .target (v :: _) => v
  | .target [] => Config.freeTdo s.draws

/-- The environment moves on to its next answer. -/
def nextAnswer (s : State) : State :=
  match s.tdoSource with
  | .loopback => s
  | .target (_ :: rest) => { s with tdoSource := .target rest }
  | .target [] => { s with draws := s.draws + 1 }

/-- `Sample()` (R105): the value, and the state with `Rd` emitted. No state of the block changes. -/
def sample (s : State) : Bool × State := (tdoLevel s, emit (.rd (tdoLevel s)) (nextAnswer s))

/-- `SaveTCLK()` (R120): the output latch is read, not the pin; no event. -/
def saveTclk (s : State) : State := { s with tclkLatch := s.outTdi }

/-- `RestoreTCLK()` (R121): one write of TDI, also when the level does not change. -/
def restoreTclk (s : State) : State := writeLine .tdi s.tclkLatch s

/-- R122 step 2. -/
def loadShift (format : ShiftFormat) (data : Half) (s : State) : State :=
  { s with so := data, si := 0#16, cnt := BitVec.ofNat 5 (formatBits format) }

/-- R122 step 3a: TDI takes bit `i` of `so`, most significant first by the order of the steps. -/
def driveBit (i : Nat) (s : State) : State := writeLine .tdi (s.so.getLsbD i) s

/-- R122 step 3d. -/
def sampleBit (s : State) : State := { (sample s).2 with si := shiftIn s.si (sample s).1 }

/-- R122 step 3e. -/
def countBit (s : State) : State := { s with cnt := s.cnt - 1#5 }

/-- R122 step 8. -/
def storeResult (s : State) : State := { s with result := s.si }

/-- R108: `result <- zext_16(Sample())`. -/
def sampleToResult (s : State) : State := { (sample s).2 with result := zext16 (sample s).1 }

/-- The effect of one micro-step. -/
def perform : MicroStep → State → State
  | .setLine l, s => setLine l s
  | .clrLine l, s => clrLine l s
  | .delayUs n, s => emit (.waitUs n) s
  | .delayMs n, s => emit (.waitMs n) s
  | .scanTdo, s => sampleToResult s
  | .saveTclk, s => saveTclk s
  | .loadShift format data, s => loadShift format data s
  | .driveBit i, s => driveBit i s
  | .sampleBit, s => sampleBit s
  | .countBit, s => countBit s
  | .restoreTclk, s => restoreTclk s
  | .storeResult, s => storeResult s

/-- Micro-steps in order, each finished before the next starts (R10, R58). -/
def performAll : List MicroStep → State → State
  | [], s => s
  | m :: ms, s => performAll ms (perform m s)

/-- The running command goes on by `k` micro-steps, or to its end if fewer are left. -/
def advanceBy (k : Nat) (s : State) : State := setLeft (s.micro.drop k) (performAll (s.micro.take k) s)

/-- The running command goes on to its end, and `busy` becomes 0 (R34, R186). -/
def finish (s : State) : State := setLeft [] (performAll s.micro s)

/-- A whole command: accepted, executed to its end, `busy` 0 again (R34). -/
def runCommand (ms : List MicroStep) (s : State) : State := finish (accept ms s)

/-- `Pulse()` (R92): low, then high. -/
def pulse : List MicroStep := [.clrLine .tck, .setLine .tck]

/-- R122 step 3 for one bit: TDI, TMS for the last bit, the pulse, the sample, the count. -/
def bitSteps (i : Nat) : List MicroStep :=
  ([.driveBit i] : List MicroStep) ++ (if i = 0 then [.setLine .tms] else []) ++ pulse ++
    ([.sampleBit, .countBit] : List MicroStep)

/-- R122 step 3 for bits `n-1` down to 0. -/
def dataSteps : Nat → List MicroStep
  | 0 => []
  | n + 1 => bitSteps n ++ dataSteps n

/-- `Shift(format, data)` (R122), steps 1 to 8. -/
def shiftSteps (format : ShiftFormat) (data : Half) : List MicroStep :=
  ([.saveTclk, .loadShift format data] : List MicroStep) ++ dataSteps (formatBits format) ++
    ([.restoreTclk] : List MicroStep) ++ pulse ++ ([.clrLine .tms] : List MicroStep) ++ pulse ++
    ([.storeResult] : List MicroStep)

/-- A refusal, `IllegalCommand` (R161) or `Busy` (R162): its whole effect is `err <- 1`. No state is saved, nothing is entered and
there is no return from it (R165, R166). -/
def refuseWord (s : State) : State := setErr s

/-- The reset input (R180) at any time: `tap` Test-Logic-Reset, `err` and `busy` 0, no command pending or running, no pin event.
What R39 leaves unspecified is a free value (log entry 12). -/
def resetEvent (s : State) : State :=
  { s with
    outTms := Config.resetLine .tms s.draws
    outTdi := Config.resetLine .tdi s.draws
    outTck := Config.resetLine .tck s.draws
    outRst := Config.resetLine .rst s.draws
    outTst := Config.resetLine .tst s.draws
    tclkLatch := Config.resetTclkLatch s.draws
    tap := .testLogicReset
    result := Config.resetResult s.draws
    err := false
    busy := false
    so := Config.resetSo s.draws
    si := Config.resetSi s.draws
    cnt := Config.resetCnt s.draws
    micro := []
    draws := s.draws + 1 }

end Sys2Proof.Machine
end

