-- ==== Sys2Proof/Machine/LineCommands.lean ====
section
/-! DEFINITION. The twelve set and clear commands (spec/40_line_primitives.md R93 to R104): one write of one line each. -/

namespace Sys2Proof.Machine

/-- The one micro-step of `CLR_TMS` (R93). -/
def clrTmsSteps : List MicroStep := [.clrLine (signalLine .tms)]

/-- `CLR_TMS` (R93). `tap` does not change, whatever TCK is. -/
def execClrTms (s : State) : Host.Outcome State Fault Refusal := .next (runCommand clrTmsSteps s)

/-- The one micro-step of `SET_TMS` (R94). -/
def setTmsSteps : List MicroStep := [.setLine (signalLine .tms)]

/-- `SET_TMS` (R94). `tap` does not change, whatever TCK is. -/
def execSetTms (s : State) : Host.Outcome State Fault Refusal := .next (runCommand setTmsSteps s)

/-- The one micro-step of `CLR_TDI` (R95). -/
def clrTdiSteps : List MicroStep := [.clrLine (signalLine .tdi)]

/-- `CLR_TDI` (R95). TCLK goes low with it; `tclk_latch` does not change. -/
def execClrTdi (s : State) : Host.Outcome State Fault Refusal := .next (runCommand clrTdiSteps s)

/-- The one micro-step of `SET_TDI` (R96). -/
def setTdiSteps : List MicroStep := [.setLine (signalLine .tdi)]

/-- `SET_TDI` (R96). TCLK goes high with it; `tclk_latch` does not change. -/
def execSetTdi (s : State) : Host.Outcome State Fault Refusal := .next (runCommand setTdiSteps s)

/-- The one micro-step of `CLR_TCK` (R97). -/
def clrTckSteps : List MicroStep := [.clrLine (signalLine .tck)]

/-- `CLR_TCK` (R97). A falling edge: `tap` does not move. -/
def execClrTck (s : State) : Host.Outcome State Fault Refusal := .next (runCommand clrTckSteps s)

/-- The one micro-step of `SET_TCK` (R98). -/
def setTckSteps : List MicroStep := [.setLine (signalLine .tck)]

/-- `SET_TCK` (R98). A rising edge, which moves `tap`, only when TCK was low. -/
def execSetTck (s : State) : Host.Outcome State Fault Refusal := .next (runCommand setTckSteps s)

/-- The one micro-step of `CLR_TCLK` (R99). -/
def clrTclkSteps : List MicroStep := [.clrLine (signalLine .tclk)]

/-- `CLR_TCLK` (R99). The line of TCLK is TDI (R22). -/
def execClrTclk (s : State) : Host.Outcome State Fault Refusal := .next (runCommand clrTclkSteps s)

/-- The one micro-step of `SET_TCLK` (R100). -/
def setTclkSteps : List MicroStep := [.setLine (signalLine .tclk)]

/-- `SET_TCLK` (R100). The line of TCLK is TDI (R22). -/
def execSetTclk (s : State) : Host.Outcome State Fault Refusal := .next (runCommand setTclkSteps s)

/-- The one micro-step of `CLR_RST` (R101). -/
def clrRstSteps : List MicroStep := [.clrLine (signalLine .rst)]

/-- `CLR_RST` (R101). The level has no meaning for the block (R24). -/
def execClrRst (s : State) : Host.Outcome State Fault Refusal := .next (runCommand clrRstSteps s)

/-- The one micro-step of `SET_RST` (R102). -/
def setRstSteps : List MicroStep := [.setLine (signalLine .rst)]

/-- `SET_RST` (R102). The level has no meaning for the block (R24). -/
def execSetRst (s : State) : Host.Outcome State Fault Refusal := .next (runCommand setRstSteps s)

/-- The one micro-step of `CLR_TST` (R103). -/
def clrTstSteps : List MicroStep := [.clrLine (signalLine .tst)]

/-- `CLR_TST` (R103). The level has no meaning for the block (R24). -/
def execClrTst (s : State) : Host.Outcome State Fault Refusal := .next (runCommand clrTstSteps s)

/-- The one micro-step of `SET_TST` (R104). -/
def setTstSteps : List MicroStep := [.setLine (signalLine .tst)]

/-- `SET_TST` (R104). The level has no meaning for the block (R24). -/
def execSetTst (s : State) : Host.Outcome State Fault Refusal := .next (runCommand setTstSteps s)

end Sys2Proof.Machine
end

