-- ==== Sys2Proof/Machine/ResetCommand.lean ====
section
/-! DEFINITION. `RESET_TAP` (spec/43_reset_tap.md R150 to R153). It resets the target's TAP, not the block (R180). -/

namespace Sys2Proof.Machine

/-- R150 steps 1 to 12: six pulses with TMS = 1, the edge to Run-Test/Idle (C2), the fuse probe. -/
def resetTapSteps : List MicroStep :=
  ([.setLine .tdi, .setLine .tms, .setLine .tck] : List MicroStep) ++ (List.replicate resetPulses pulse).flatten ++
    ([.clrLine .tck, .clrLine .tms, .setLine .tck, .delayUs fuseLowUs, .setLine .tms, .clrLine .tms,
      .delayUs fuseLowUs, .setLine .tms] : List MicroStep)

/-- `RESET_TAP` (R150). -/
def execResetTap (s : State) : Host.Outcome State Fault Refusal := .next (runCommand resetTapSteps s)

end Sys2Proof.Machine
end

