-- ==== Sys2Proof/Machine/SampleDelay.lean ====
section
/-! DEFINITION. `SCAN_TDO` (spec/40_line_primitives.md R108) and the delays (R106, R107). -/

namespace Sys2Proof.Machine

/-- The one micro-step of `SCAN_TDO` (R108). -/
def scanTdoSteps : List MicroStep := [.scanTdo]

/-- `SCAN_TDO` (R108): `result` becomes the sampled bit, zero-extended; no line moves. -/
def execScanTdo (s : State) : Host.Outcome State Fault Refusal := .next (runCommand scanTdoSteps s)

/-- The one micro-step of `DELAY_US n` (R106). -/
def delayUsSteps (n : Half) : List MicroStep := [.delayUs n.toNat]

/-- `DELAY_US n` (R106): the event `Wait_us(n)`, also for 0; nothing else changes. -/
def execDelayUs (n : Half) (s : State) : Host.Outcome State Fault Refusal := .next (runCommand (delayUsSteps n) s)

/-- The one micro-step of `DELAY_MS n` (R107). -/
def delayMsSteps (n : Half) : List MicroStep := [.delayMs n.toNat]

/-- `DELAY_MS n` (R107): the event `Wait_ms(n)`, also for 0; nothing else changes. -/
def execDelayMs (n : Half) (s : State) : Host.Outcome State Fault Refusal := .next (runCommand (delayMsSteps n) s)

end Sys2Proof.Machine
end

