-- ==== Sys2Proof/Machine/ScanCommands.lean ====
section
/-! DEFINITION. The scans `DR_SHIFT16` and `IR_SHIFT` (spec/42_scan.md R140 to R142): a fixed prologue, then `Shift`. -/

namespace Sys2Proof.Machine

/-- R140 steps 1 to 5: three pulses with TMS 1, 0, 0. -/
def drPrologue : List MicroStep :=
  ([.setLine .tms] : List MicroStep) ++ pulse ++ ([.clrLine .tms] : List MicroStep) ++ pulse ++ pulse

/-- R141 steps 1 to 6: four pulses with TMS 1, 1, 0, 0. -/
def irPrologue : List MicroStep :=
  ([.setLine .tms] : List MicroStep) ++ pulse ++ pulse ++ ([.clrLine .tms] : List MicroStep) ++ pulse ++ pulse

/-- The micro-steps of `DR_SHIFT16 d` (R140). -/
def drShift16Steps (d : Half) : List MicroStep := drPrologue ++ shiftSteps .sixteen d

/-- `DR_SHIFT16 d` (R140). -/
def execDrShift16 (d : Half) (s : State) : Host.Outcome State Fault Refusal := .next (runCommand (drShift16Steps d) s)

/-- The micro-steps of `IR_SHIFT i` (R141); bits of `i` above bit 7 are not sent (R71). -/
def irShiftSteps (i : Half) : List MicroStep := irPrologue ++ shiftSteps .eight i

/-- `IR_SHIFT i` (R141). -/
def execIrShift (i : Half) (s : State) : Host.Outcome State Fault Refusal := .next (runCommand (irShiftSteps i) s)

end Sys2Proof.Machine
end

