-- ==== Sys2Proof/Machine/ShiftCommands.lean ====
section
/-! DEFINITION. The bare shifts `SHIFT.8` and `SHIFT.16` (spec/41_shift.md R122 to R126). Nothing about the start is checked. -/

namespace Sys2Proof.Machine

/-- `SHIFT.8 d` is `Shift(8, d)` (R124); bits of `d` above bit 7 are not sent (R71). -/
def shift8Steps (d : Half) : List MicroStep := shiftSteps .eight d

/-- `SHIFT.8 d` (R124). -/
def execShift8 (d : Half) (s : State) : Host.Outcome State Fault Refusal := .next (runCommand (shift8Steps d) s)

/-- `SHIFT.16 d` is `Shift(16, d)` (R125). -/
def shift16Steps (d : Half) : List MicroStep := shiftSteps .sixteen d

/-- `SHIFT.16 d` (R125). -/
def execShift16 (d : Half) (s : State) : Host.Outcome State Fault Refusal := .next (runCommand (shift16Steps d) s)

end Sys2Proof.Machine
end

