-- ==== Sys2Proof/Machine/Dispatch.lean ====
section
/-! DEFINITION. The meaning of each command (spec/30_encoding.md R73), one arm a constructor. -/

namespace Sys2Proof.Machine

def exec (i : Instr) (s : State) : Host.Outcome State Fault Refusal :=
  match i with
  | .clrTms => Sys2Proof.Machine.execClrTms s
  | .setTms => Sys2Proof.Machine.execSetTms s
  | .clrTdi => Sys2Proof.Machine.execClrTdi s
  | .setTdi => Sys2Proof.Machine.execSetTdi s
  | .clrTck => Sys2Proof.Machine.execClrTck s
  | .setTck => Sys2Proof.Machine.execSetTck s
  | .clrTclk => Sys2Proof.Machine.execClrTclk s
  | .setTclk => Sys2Proof.Machine.execSetTclk s
  | .clrRst => Sys2Proof.Machine.execClrRst s
  | .setRst => Sys2Proof.Machine.execSetRst s
  | .clrTst => Sys2Proof.Machine.execClrTst s
  | .setTst => Sys2Proof.Machine.execSetTst s
  | .scanTdo => Sys2Proof.Machine.execScanTdo s
  | .delayUs n => Sys2Proof.Machine.execDelayUs n s
  | .delayMs n => Sys2Proof.Machine.execDelayMs n s
  | .shift8 d => Sys2Proof.Machine.execShift8 d s
  | .shift16 d => Sys2Proof.Machine.execShift16 d s
  | .drShift16 d => Sys2Proof.Machine.execDrShift16 d s
  | .irShift d => Sys2Proof.Machine.execIrShift d s
  | .resetTap => Sys2Proof.Machine.execResetTap s

end Sys2Proof.Machine
end

