-- ==== Sys2Proof/Machine/HostBus.lean ====
section
/-! DEFINITION. The host space (spec/10_state.md R34, R35, R37, spec/20_memory.md R50, R56, R64) and what a move of the host does:
commands accepted or refused (R161, R162, R164), registers read, the reset input (R180). -/

namespace Sys2Proof.Machine

/-- Offset of `CMD` (R34). -/
def cmdOffset : Int := 0x0

/-- Offset of `RESULT` (R35). -/
def resultOffset : Int := 0x4

/-- Offset of `STATUS` (R37). -/
def statusOffset : Int := 0x8

/-- The one access width of the host space, in bits (R56). -/
def hostWidth : Nat := 32

/-- An access the host makes on its bus, at an absolute address. -/
inductive BusAccess where
  | read (address width : Nat)
  | write (address width : Nat) (value : Word)
deriving DecidableEq, Repr

/-- The host's access under the platform's `HOST_BASE` (R5, R64): the block sees the offset from it. -/
def busAction (m : AddressMap) : BusAccess → HostAction
  | .read address width => .read (address - m.hostBase : Int) width
  | .write address width value => .write (address - m.hostBase : Int) width value

/-- R56: a whole register at its own offset; every other access has no meaning. -/
def hostAccessOk (offset : Int) (width : Nat) : Bool :=
  width == hostWidth && (offset == cmdOffset || offset == resultOffset || offset == statusOffset)

/-- What a read of a host register returns: `CMD` reads 0 (R34). -/
def readHostReg (offset : Int) (s : State) : Word :=
  if offset = resultOffset then resultWord s else if offset = statusOffset then statusWord s else 0#32

/-- The micro-steps of a command, those its meaning runs. -/
def commandSteps : Instr → List MicroStep
  | .clrTms => clrTmsSteps
  | .setTms => setTmsSteps
  | .clrTdi => clrTdiSteps
  | .setTdi => setTdiSteps
  | .clrTck => clrTckSteps
  | .setTck => setTckSteps
  | .clrTclk => clrTclkSteps
  | .setTclk => setTclkSteps
  | .clrRst => clrRstSteps
  | .setRst => setRstSteps
  | .clrTst => clrTstSteps
  | .setTst => setTstSteps
  | .scanTdo => scanTdoSteps
  | .delayUs n => delayUsSteps n
  | .delayMs n => delayMsSteps n
  | .shift8 d => shift8Steps d
  | .shift16 d => shift16Steps d
  | .drShift16 d => drShift16Steps d
  | .irShift d => irShiftSteps d
  | .resetTap => resetTapSteps

/-- How many micro-steps pass before the host's next move, when that comes early (R162); none when the host waits. -/
def nextEarly (s : State) : Option Nat :=
  match s.hostQueue with
  | [] => none
  | mv :: _ => mv.early

/-- The block works on until the host's next move: to the end of the running command, unless that move comes early. -/
def workOn (s : State) : State :=
  match nextEarly s with
  | some k => advanceBy k s
  | none => finish s

/-- An accepted command runs (R34): to its end, which is its meaning, or up to an early move of the host. -/
def startCommand (i : Instr) (s : State) : Host.Outcome State Fault Refusal :=
  match nextEarly s with
  | some k => .next (advanceBy k (accept (commandSteps i) s))
  | none => exec i s

/-- A write of `CMD` (R34). First `busy` is tested (R162, R164): the word is dropped and the running command goes on. Then the
word is decoded: an illegal one is refused (R161), a legal one runs. -/
def writeCmd (w : Word) (s : State) : Host.Outcome State Fault Refusal :=
  if s.busy then .next (workOn (refuseWord s))
  else
    match decode w with
    | .ok i => startCommand i s
    | .error _ => .next (workOn (refuseWord s))

/-- One move of the outside world. A read has no side effect (R35, R37); a write of `RESULT` or `STATUS` is ignored. -/
def hostAct (a : HostAction) (s : State) : Host.Outcome State Fault Refusal :=
  match a with
  | .read offset width =>
    if hostAccessOk offset width then .next (workOn { s with hostReads := s.hostReads ++ [readHostReg offset s] })
    else .refused .unsupportedHostAccess
  | .write offset width value =>
    if hostAccessOk offset width then
      if offset = cmdOffset then writeCmd value s else .next (workOn s)
    else .refused .unsupportedHostAccess
  | .reset => .next (workOn (resetEvent s))

end Sys2Proof.Machine
end

