-- ==== Sys2Proof/Machine/Step.lean ====
section
/-! DEFINITION. One step: the host's next move (R36: the order of commands is the order of `CMD` writes), and the block works on
until the move after it. With no move to come the block finishes what it runs and then is idle (R191). -/

namespace Sys2Proof.Machine

/-- One step of the block and its host. -/
def step (s : State) : Host.Outcome State Fault Refusal :=
  match s.hostQueue with
  | [] => .next (finish s)
  | mv :: rest => hostAct mv.action { s with hostQueue := rest }

/-- The host's only move to come is the write of this word to `CMD`, and the block is idle (log entry 6). -/
def State.withFetchWord (s : State) (nbits w : Nat) : State :=
  { s with
    busy := false
    micro := []
    hostQueue := [⟨none, .write cmdOffset hostWidth (BitVec.ofNat 32 (w % 2 ^ nbits))⟩] }

end Sys2Proof.Machine
end

