-- ==== Sys2Proof/Machine/Target.lean ====
section
/-! DEFINITION. The far side of the pins: the lines and the TAP of a target that watches the pin events (spec/00_scope.md R7,
spec/10_state.md R28, R30), and the event lists and sample values of the shift, scan and reset commands as the rules give them
(spec/41_shift.md R122, R123, spec/42_scan.md R140, R141, spec/43_reset_tap.md R150). -/

namespace Sys2Proof.Machine

/-- The levels of the five lines. -/
structure Wires where
  tms : Bool
  tdi : Bool
  tck : Bool
  rst : Bool
  tst : Bool
deriving DecidableEq, Repr

/-- A TAP controller on the lines: the levels it sees and its state. -/
structure TapView where
  wires : Wires
  tap : Tap
deriving DecidableEq, Repr

/-- The levels the block last drove (R21). -/
def wiresOf (s : State) : Wires := ⟨s.outTms, s.outTdi, s.outTck, s.outRst, s.outTst⟩

/-- The block's own lines and TAP copy, as a view. -/
def viewOf (s : State) : TapView := ⟨wiresOf s, s.tap⟩

/-- One line at a level. -/
def driveWire (l : Line) (v : Bool) (w : Wires) : Wires :=
  match l with
  | .tms => { w with tms := v }
  | .tdi => { w with tdi := v }
  | .tck => { w with tck := v }
  | .rst => { w with rst := v }
  | .tst => { w with tst := v }

/-- What an event does to the levels (R7). -/
def wireEvent (w : Wires) : PinEvent → Wires
  | .set l => driveWire l true w
  | .clr l => driveWire l false w
  | .rd _ => w
  | .waitUs _ => w
  | .waitMs _ => w

/-- A rising edge: a `Set(TCK)` while TCK is low (spec/00_scope.md section 5). -/
def isRise (w : Wires) (e : PinEvent) : Bool := e == .set .tck && !w.tck

/-- A TAP controller sees one event: it moves at a rising edge of TCK, by TMS (R27, R28). -/
def watch (v : TapView) (e : PinEvent) : TapView :=
  { wires := wireEvent v.wires e
    tap := if isRise v.wires e then tapNext v.tap v.wires.tms else v.tap }

/-- A TAP controller sees the events in order. -/
def watchAll : TapView → List PinEvent → TapView
  | v, [] => v
  | v, e :: es => watchAll (watch v e) es

/-- The levels of TMS and TDI at each rising edge. -/
def edgeLevels : Wires → List PinEvent → List (Bool × Bool)
  | _, [] => []
  | w, e :: es => (if isRise w e then [(w.tms, w.tdi)] else []) ++ edgeLevels (wireEvent w e) es

/-- The TAP state after each rising edge. -/
def edgeTaps : TapView → List PinEvent → List Tap
  | _, [] => []
  | v, e :: es => (if isRise v.wires e then [(watch v e).tap] else []) ++ edgeTaps (watch v e) es

/-- The values read, in order. -/
def rdValues : List PinEvent → List Bool
  | [] => []
  | .rd v :: es => v :: rdValues es
  | _ :: es => rdValues es

/-- An event with the value of a read left out. -/
def eraseRd : PinEvent → PinEvent
  | .rd _ => .rd false
  | .set l => .set l
  | .clr l => .clr l
  | .waitUs n => .waitUs n
  | .waitMs n => .waitMs n

/-- The events that came after those of `s`. -/
def newEvents (s t : State) : List PinEvent := t.events.drop s.events.length

/-- Bits `n-1` down to 0, the order in which they are sent (R55, R122). -/
def dataBits : Nat → Half → List Bool
  | 0, _ => []
  | n + 1, d => d.getLsbD n :: dataBits n d

/-- `Set(X)` or `Clr(X)` by a level. -/
def lineEvent (l : Line) (v : Bool) : PinEvent := if v then .set l else .clr l

/-- The two events of a pulse (R92). -/
def pulseEvents : List PinEvent := [.clr .tck, .set .tck]

/-- The events of the data bits `n-1` down to 0 when the reads return `rds` (R122 step 3). -/
def dataEvents : Nat → Half → List Bool → List PinEvent
  | 0, _, _ => []
  | n + 1, d, rds =>
    [lineEvent .tdi (d.getLsbD n)] ++ (if n = 0 then [.set .tms] else []) ++ pulseEvents ++ [.rd (rds.headD false)] ++
      dataEvents n d rds.tail

/-- The events of `Shift(format, data)` with TCLK at `latch` when the reads return `rds` (R122). -/
def shiftEvents (format : ShiftFormat) (d : Half) (latch : Bool) (rds : List Bool) : List PinEvent :=
  dataEvents (formatBits format) d rds ++ [lineEvent .tdi latch] ++ pulseEvents ++ [.clr .tms] ++ pulseEvents

/-- The events of the prologue of `DR_SHIFT16` (R140 steps 1 to 5). -/
def drPrologueEvents : List PinEvent := [.set .tms] ++ pulseEvents ++ [.clr .tms] ++ pulseEvents ++ pulseEvents

/-- The events of the prologue of `IR_SHIFT` (R141 steps 1 to 6). -/
def irPrologueEvents : List PinEvent :=
  [.set .tms] ++ pulseEvents ++ pulseEvents ++ [.clr .tms] ++ pulseEvents ++ pulseEvents

/-- The 23 events of `RESET_TAP`, written out (R150, V30). -/
def resetTapEvents : List PinEvent :=
  ([.set .tdi, .set .tms, .set .tck] : List PinEvent) ++
    ([.clr .tck, .set .tck, .clr .tck, .set .tck, .clr .tck, .set .tck] : List PinEvent) ++
    ([.clr .tck, .set .tck, .clr .tck, .set .tck, .clr .tck, .set .tck] : List PinEvent) ++
    ([.clr .tck, .clr .tms, .set .tck, .waitUs 5, .set .tms, .clr .tms, .waitUs 5, .set .tms] : List PinEvent)

/-- The value assembled from the reads, first read most significant (R122 step 3d, R123). -/
def assemble (rds : List Bool) : Half := rds.foldl shiftIn 0#16

/-- What the environment answers to samples taken while TDI has these levels, and how it is left (R23, R128). -/
def takeAnswers : List Bool → TdoSource → Nat → List Bool × TdoSource × Nat
  | [], src, n => ([], src, n)
  | tdi :: rest, .loopback, n => (tdi :: (takeAnswers rest .loopback n).1, (takeAnswers rest .loopback n).2)
  | _ :: rest, .target (v :: vs), n => (v :: (takeAnswers rest (.target vs) n).1, (takeAnswers rest (.target vs) n).2)
  | _ :: rest, .target [], n =>
    (Config.freeTdo n :: (takeAnswers rest (.target []) (n + 1)).1, (takeAnswers rest (.target []) (n + 1)).2)

/-- The answers to the samples of `Shift(format, data)` from state `s`: each is taken with TDI at the bit just sent. -/
def shiftAnswers (format : ShiftFormat) (d : Half) (s : State) : List Bool × TdoSource × Nat :=
  takeAnswers (dataBits (formatBits format) d) s.tdoSource s.draws

end Sys2Proof.Machine
end

