-- ==== Sys2Proof/Machine/Gpio.lean ====
section
/-! DEFINITION. The GPIO triple under a platform's pin map (spec/20_memory.md R50 to R57, spec/00_scope.md R5, R7): which register
access a pin event is, and what a write does to the port's lines. The block keeps no GPIO register of its own (log entry 14). -/

namespace Sys2Proof.Machine

/-- The bit of an output line (R5). -/
def pinOf (p : PinMap) : Line → Nat
  | .tms => p.tms
  | .tdi => p.tdi
  | .tck => p.tck
  | .rst => p.rst
  | .tst => p.tst

/-- The bit of a signal name: `PIN_TCLK` is `PIN_TDI` (R5, R22). -/
def pinOfSignal (p : PinMap) (x : Signal) : Nat := pinOf p (signalLine x)

/-- An access of the triple, a whole register (R51 to R53, R56). -/
inductive GpioAccess (w : Nat) where
  | writeSet (mask : BitVec w)
  | writeClr (mask : BitVec w)
  | readIn (value : BitVec w)
deriving DecidableEq, Repr

/-- `1 << PIN_X` (R51). -/
def oneHot (p : PinMap) (l : Line) : BitVec p.width := BitVec.ofNat p.width (2 ^ pinOf p l)

/-- A word of `GPIO_IN`: the TDO bit has level `v`, every other bit is what `others` has (R53, U5). -/
def inputWord (p : PinMap) (others : BitVec p.width) (v : Bool) : BitVec p.width :=
  (others &&& ~~~(BitVec.ofNat p.width (2 ^ p.tdo))) ||| (if v then BitVec.ofNat p.width (2 ^ p.tdo) else 0#p.width)

/-- The access a pin event is (R7); a wait is none. -/
def gpioAccess (p : PinMap) (others : BitVec p.width) : PinEvent → Option (GpioAccess p.width)
  | .set l => some (.writeSet (oneHot p l))
  | .clr l => some (.writeClr (oneHot p l))
  | .rd v => some (.readIn (inputWord p others v))
  | .waitUs _ => none
  | .waitMs _ => none

/-- The address of an access, under the platform's `GPIO_BASE` and offsets (R5, R64). -/
def gpioAddress {w : Nat} (m : AddressMap) : GpioAccess w → Nat
  | .writeSet _ => m.gpioBase + m.gpioSet
  | .writeClr _ => m.gpioBase + m.gpioClr
  | .readIn _ => m.gpioBase + m.gpioIn

/-- The port's lines after an access: a 1 bit of a mask acts, a 0 bit does not; a read moves no line (R51 to R54). -/
def portAfter {w : Nat} (lines : BitVec w) : GpioAccess w → BitVec w
  | .writeSet mask => lines ||| mask
  | .writeClr mask => lines &&& ~~~mask
  | .readIn _ => lines

/-- The port's lines after the accesses of an event list. -/
def portAfterEvents (p : PinMap) (others lines : BitVec p.width) : List PinEvent → BitVec p.width
  | [] => lines
  | e :: es =>
    match gpioAccess p others e with
    | some a => portAfterEvents p others (portAfter lines a) es
    | none => portAfterEvents p others lines es

/-- The port shows the block's output latches at their pins. -/
abbrev PortShows (p : PinMap) (lines : BitVec p.width) (s : State) : Prop :=
  ∀ l : Line, lines.getLsbD (pinOf p l) = level s l

end Sys2Proof.Machine
end

