-- ==== Sys2Proof/Safety.lean ====
section
/-! DEFINITION. The terms claims use: an idle block, the invariant of the step, the illegal words of R74 by their fields, the
commands by what they write (R20), and several commands in a row. -/

namespace Sys2Proof.Machine

/-- No command is running or pending (R32, R39). -/
abbrev Idle (s : State) : Prop := s.busy = false ∧ s.micro = []

/-- R33: the bits still to go are those the running command has yet to count, once its shift register is loaded. -/
abbrev CountsBitsToGo (s : State) : Prop :=
  (∀ m ∈ s.micro, ∀ f d, m ≠ .loadShift f d) → MicroStep.countBit ∈ s.micro →
    s.cnt.toNat = s.micro.count .countBit

/-- What every step keeps: `busy` is 1 exactly while something is left to do (R32, R33), what is left is the end of a legal
command's micro-steps (R10, R34), and `cnt` counts the bits still to go (R33). -/
structure Inv (s : State) : Prop where
  busyIff : s.busy = !s.micro.isEmpty
  position : s.micro = [] ∨ ∃ i : Instr, i.WellFormed ∧ s.micro <:+ commandSteps i
  bitsToGo : CountsBitsToGo s

/-- The illegal words, by the five clauses of R74. -/
abbrev IllegalByFields (w : Word) : Prop :=
  opField w ∉ knownOps ∨
  (opField w = 0x40#8 ∧ fmtField w ≠ 0x08#8 ∧ fmtField w ≠ 0x10#8) ∨
  (opField w ≠ 0x40#8 ∧ fmtField w ≠ 0#8) ∨
  (opField w ∈ operandlessOps ∧ immField w ≠ 0#16) ∨
  ((opField w = 0x40#8 ∧ fmtField w = 0x08#8 ∨ opField w = 0x42#8) ∧ w.extractLsb' 8 8 ≠ 0#8)

/-- The bare shift of a format. -/
def shiftCommand : ShiftFormat → Half → Instr
  | .eight, d => .shift8 d
  | .sixteen, d => .shift16 d

/-- `SHIFT`, `DR_SHIFT16` and `IR_SHIFT`: the commands that contain a `Shift` (R120, R122). -/
def containsShift : Instr → Bool
  | .shift8 _ | .shift16 _ | .drShift16 _ | .irShift _ => true
  | .clrTms | .setTms | .clrTdi | .setTdi | .clrTck | .setTck | .clrTclk | .setTclk => false
  | .clrRst | .setRst | .clrTst | .setTst | .scanTdo | .delayUs _ | .delayMs _ | .resetTap => false

/-- The commands R182 allows between scans: everything but a bare `SHIFT` and TCK moved by hand. -/
def keepsScansSafe : Instr → Bool
  | .clrTck | .setTck | .shift8 _ | .shift16 _ => false
  | .clrTms | .setTms | .clrTdi | .setTdi | .clrTclk | .setTclk | .clrRst | .setRst | .clrTst | .setTst => true
  | .scanTdo | .delayUs _ | .delayMs _ | .drShift16 _ | .irShift _ | .resetTap => true

/-- Commands one after the other, each after the one before has finished (R58, R191). -/
def execAll : List Instr → State → Host.Outcome State Fault Refusal
  | [], s => .next s
  | i :: is, s =>
    match exec i s with
    | .next t => execAll is t
    | .fault r => .fault r
    | .refused r => .refused r

/-- A move that is not the reset input. -/
def notReset : Option HostMove → Bool
  | some ⟨_, .reset⟩ => false
  | some ⟨_, .read _ _⟩ => true
  | some ⟨_, .write _ _ _⟩ => true
  | none => true

end Sys2Proof.Machine
end

