-- ==== Sys2Proof/Certificates/Slice0/Obligations.lean ====
section
/-! DEFINITION. The statements for the provers, each from the rules its docstring names. In every completion statement the next
state is written as an update of the state before, so that what the update does not name is unchanged: the frame. -/

open Sys2Proof Sys2Proof.Machine

/-! Encoding (spec/30_encoding.md) -/

/-- A well-formed command is read back from its word: no bit of an operand is dropped (R70 to R73). -/
def Obligations.DecodeOfEncodeIsTheCommand : Prop :=
  ∀ i : Instr, i.WellFormed → decode (encode i) = .ok i

/-- A word that decodes is the word of the command it decodes to, which is well-formed: no two words mean the same (R70 to R74). -/
def Obligations.EncodeOfDecodeIsTheWord : Prop :=
  ∀ (w : Word) (i : Instr), decode w = .ok i → i.WellFormed ∧ encode i = w

/-- Decoding follows the table: at most one row matches a word; if one does the command is that row's with its fields cut from the
word, and if none does the word is illegal (section 1, R72). -/
def Obligations.DecodingFollowsTheOneMatchingRow : Prop :=
  ∀ w : Word,
    (∀ r ∈ opcodeRows, ∀ r' ∈ opcodeRows, w &&& r.mask = r.value → w &&& r'.mask = r'.value →
      r.mnemonic = r'.mnemonic) ∧
    (∀ r ∈ opcodeRows, w &&& r.mask = r.value →
      decode w = .ok (r.build w) ∧ mnemonicOf (r.build w) = r.mnemonic) ∧
    ((∀ r ∈ opcodeRows, w &&& r.mask ≠ r.value) → ∃ c, decode w = .error c)

/-- R74: the illegal words are exactly the five classes, and an illegal word written to an idle block has no effect but `err`. -/
def Obligations.IllegalWordsAreTheFiveClasses : Prop :=
  (∀ w : Word, (∃ c, decode w = .error c) ↔ IllegalByFields w) ∧
  (∀ (w : Word) (s : State) (e : Option Nat) (rest : List HostMove), IllegalByFields w → Idle s →
    step { s with hostQueue := ⟨e, .write 0x0 32 w⟩ :: rest } = .next { s with hostQueue := rest, err := true })

/-- Words written out from the opcode map and the decoding vectors V70 to V85: each decodes as the spec says, or is refused under
the name of its class. -/
def Obligations.WordsOfTheSpecDecode : Prop :=
  decode 0x10000000#32 = .ok .clrTms ∧ decode 0x1B000000#32 = .ok .setTst ∧ decode 0x20000000#32 = .ok .scanTdo ∧
  decode 0x3000FFFF#32 = .ok (.delayUs 0xFFFF#16) ∧ decode 0x3100000A#32 = .ok (.delayMs 10#16) ∧
  decode 0x400800FF#32 = .ok (.shift8 0x00FF#16) ∧ decode 0x4010A5C3#32 = .ok (.shift16 0xA5C3#16) ∧
  decode 0x4100AAAA#32 = .ok (.drShift16 0xAAAA#16) ∧ decode 0x420000A5#32 = .ok (.irShift 0x00A5#16) ∧
  decode 0x50000000#32 = .ok .resetTap ∧
  decode 0x00000000#32 = .error .unknownOp ∧ decode 0x1C000000#32 = .error .unknownOp ∧
  decode 0x40090000#32 = .error .badFormat ∧ decode 0x41010000#32 = .error .fmtNotZero ∧
  decode 0x10000001#32 = .error .immNotZero ∧ decode 0x420001A5#32 = .error .operandTooWide

/-- The opcode map of section 2: the twenty words with every operand. -/
def Obligations.OpcodeMapWordsDecode : Prop :=
  decode 0x10000000#32 = .ok .clrTms ∧ decode 0x11000000#32 = .ok .setTms ∧
  decode 0x12000000#32 = .ok .clrTdi ∧ decode 0x13000000#32 = .ok .setTdi ∧
  decode 0x14000000#32 = .ok .clrTck ∧ decode 0x15000000#32 = .ok .setTck ∧
  decode 0x16000000#32 = .ok .clrTclk ∧ decode 0x17000000#32 = .ok .setTclk ∧
  decode 0x18000000#32 = .ok .clrRst ∧ decode 0x19000000#32 = .ok .setRst ∧
  decode 0x1A000000#32 = .ok .clrTst ∧ decode 0x1B000000#32 = .ok .setTst ∧
  decode 0x20000000#32 = .ok .scanTdo ∧ decode 0x50000000#32 = .ok .resetTap ∧
  (∀ n : Half, decode (0x3000#16 ++ n) = .ok (.delayUs n) ∧ decode (0x3100#16 ++ n) = .ok (.delayMs n) ∧
    decode (0x4010#16 ++ n) = .ok (.shift16 n) ∧ decode (0x4100#16 ++ n) = .ok (.drShift16 n)) ∧
  (∀ b : Octet, decode (0x400800#24 ++ b) = .ok (.shift8 (0#8 ++ b)) ∧
    decode (0x420000#24 ++ b) = .ok (.irShift (0#8 ++ b)))

/-! The TAP copy (spec/10_state.md R26 to R30) -/

/-- The number of TMS = 1 edges R29.1 gives for each start state. -/
abbrev edgesToReset : Tap → Nat
  | .testLogicReset => 0
  | .selectIrScan => 1
  | .selectDrScan => 2
  | .runTestIdle | .updateDr | .updateIr => 3
  | .exit1Dr | .exit2Dr | .exit1Ir | .exit2Ir => 4
  | .captureDr | .shiftDr | .pauseDr | .captureIr | .shiftIr | .pauseIr => 5

/-- R29, its five properties: (1) the edges with TMS = 1 to Test-Logic-Reset, for every number of edges; (2) and (3) the
prologues; (4) the shift states for every number of edges; (5) Run-Test/Idle and Test-Logic-Reset with TMS = 0. -/
def Obligations.TapNextProperties : Prop :=
  (∀ (q : Tap) (n : Nat), tapWalk q (List.replicate n true) = .testLogicReset ↔ edgesToReset q ≤ n) ∧
  (∀ q : Tap, edgesToReset q ≤ 5) ∧
  (tapWalk .runTestIdle [true] = .selectDrScan ∧ tapWalk .runTestIdle [true, false] = .captureDr ∧
    tapWalk .runTestIdle [true, false, false] = .shiftDr) ∧
  (tapWalk .runTestIdle [true, true] = .selectIrScan ∧ tapWalk .runTestIdle [true, true, false] = .captureIr ∧
    tapWalk .runTestIdle [true, true, false, false] = .shiftIr) ∧
  (∀ n : Nat, tapWalk .shiftDr (List.replicate n false) = .shiftDr ∧
    tapWalk .shiftDr (List.replicate n false ++ [true]) = .exit1Dr ∧
    tapWalk .shiftDr (List.replicate n false ++ [true, true]) = .updateDr ∧
    tapWalk .shiftDr (List.replicate n false ++ [true, true, false]) = .runTestIdle) ∧
  (∀ n : Nat, tapWalk .shiftIr (List.replicate n false) = .shiftIr ∧
    tapWalk .shiftIr (List.replicate n false ++ [true]) = .exit1Ir ∧
    tapWalk .shiftIr (List.replicate n false ++ [true, true]) = .updateIr ∧
    tapWalk .shiftIr (List.replicate n false ++ [true, true, false]) = .runTestIdle) ∧
  (tapNext .runTestIdle false = .runTestIdle ∧ tapNext .testLogicReset false = .runTestIdle)

/-- R28: a micro-step moves `tap` exactly when it is `SetLine(TCK)` while TCK is low, and then by `TapNext` with TMS as it is; every
command is made of micro-steps; of the host's moves only the reset input writes `tap` otherwise. -/
def Obligations.OnlyARisingTckMovesTap : Prop :=
  (∀ (m : MicroStep) (s : State),
    (perform m s).tap = if m = .setLine .tck ∧ s.outTck = false then tapNext s.tap s.outTms else s.tap) ∧
  (∀ (i : Instr) (s : State), exec i s = .next { performAll (commandSteps i) s with busy := false, micro := [] }) ∧
  (∀ s t : State, step s = .next t → notReset s.hostQueue.head? = true → PinEvent.set .tck ∉ newEvents s t →
    t.tap = s.tap)

/-- The numbering of R26, all sixteen rows; so each state has a number of its own, and each number is a state's. -/
def Obligations.TapCodesNumberTheStates : Prop :=
  tapCode .testLogicReset = 0#4 ∧ tapCode .runTestIdle = 1#4 ∧ tapCode .selectDrScan = 2#4 ∧
  tapCode .captureDr = 3#4 ∧ tapCode .shiftDr = 4#4 ∧ tapCode .exit1Dr = 5#4 ∧ tapCode .pauseDr = 6#4 ∧
  tapCode .exit2Dr = 7#4 ∧ tapCode .updateDr = 8#4 ∧ tapCode .selectIrScan = 9#4 ∧ tapCode .captureIr = 10#4 ∧
  tapCode .shiftIr = 11#4 ∧ tapCode .exit1Ir = 12#4 ∧ tapCode .pauseIr = 13#4 ∧ tapCode .exit2Ir = 14#4 ∧
  tapCode .updateIr = 15#4 ∧
  (∀ q q' : Tap, tapCode q = tapCode q' ↔ q = q') ∧ ∀ c : BitVec 4, ∃ q : Tap, tapCode q = c

/-- The block's lines and TAP copy are what any TAP controller gets from the pin events of a step, the reset input apart: the list only
grows, and watching what was added leads from the view before to the view after (section 4, R30; R58). -/
def Obligations.TapCopyFollowsThePinEvents : Prop :=
  ∀ s t : State, step s = .next t → notReset s.hostQueue.head? = true →
    t.events = s.events ++ newEvents s t ∧ watchAll (viewOf s) (newEvents s t) = viewOf t

/-! Set and clear commands (spec/40_line_primitives.md) -/

/-- R93, R94: one write of TMS, and nothing else, `tap` least. -/
def Obligations.TmsCommandsWriteTms : Prop :=
  decode 0x10000000#32 = .ok .clrTms ∧ decode 0x11000000#32 = .ok .setTms ∧
  ∀ s : State,
    exec .clrTms s =
      .next { s with outTms := false, events := s.events ++ [.clr .tms], busy := false, micro := [] } ∧
    exec .setTms s =
      .next { s with outTms := true, events := s.events ++ [.set .tms], busy := false, micro := [] }

/-- R95, R96: one write of TDI, which carries TCLK too (R22); `tclk_latch` does not change. -/
def Obligations.TdiCommandsWriteTdiAndTclk : Prop :=
  decode 0x12000000#32 = .ok .clrTdi ∧ decode 0x13000000#32 = .ok .setTdi ∧
  (∀ s : State, level s (signalLine .tclk) = s.outTdi) ∧
  ∀ s : State,
    exec .clrTdi s =
      .next { s with outTdi := false, events := s.events ++ [.clr .tdi], busy := false, micro := [] } ∧
    exec .setTdi s =
      .next { s with outTdi := true, events := s.events ++ [.set .tdi], busy := false, micro := [] }

/-- R97, R98: TCK low moves nothing else; TCK high moves `tap` by TMS when TCK was low, and not when it was high. -/
def Obligations.TckCommandsMoveTapOnTheRisingEdge : Prop :=
  decode 0x14000000#32 = .ok .clrTck ∧ decode 0x15000000#32 = .ok .setTck ∧
  ∀ s : State,
    exec .clrTck s =
      .next { s with outTck := false, events := s.events ++ [.clr .tck], busy := false, micro := [] } ∧
    exec .setTck s =
      .next { s with
        outTck := true
        tap := if s.outTck = false then tapNext s.tap s.outTms else s.tap
        events := s.events ++ [.set .tck]
        busy := false
        micro := [] }

/-- R99, R100: TCLK is written as TDI, with the same state change and event as `CLR_TDI` and `SET_TDI`. -/
def Obligations.TclkCommandsAreTdiCommands : Prop :=
  decode 0x16000000#32 = .ok .clrTclk ∧ decode 0x17000000#32 = .ok .setTclk ∧
  ∀ s : State,
    exec .clrTclk s =
      .next { s with outTdi := false, events := s.events ++ [.clr .tdi], busy := false, micro := [] } ∧
    exec .setTclk s =
      .next { s with outTdi := true, events := s.events ++ [.set .tdi], busy := false, micro := [] } ∧
    exec .clrTclk s = exec .clrTdi s ∧ exec .setTclk s = exec .setTdi s

/-- R101 to R104: one write of RST or of TST, and nothing else. -/
def Obligations.RstAndTstCommandsWriteTheirLine : Prop :=
  decode 0x18000000#32 = .ok .clrRst ∧ decode 0x19000000#32 = .ok .setRst ∧
  decode 0x1A000000#32 = .ok .clrTst ∧ decode 0x1B000000#32 = .ok .setTst ∧
  ∀ s : State,
    exec .clrRst s =
      .next { s with outRst := false, events := s.events ++ [.clr .rst], busy := false, micro := [] } ∧
    exec .setRst s =
      .next { s with outRst := true, events := s.events ++ [.set .rst], busy := false, micro := [] } ∧
    exec .clrTst s =
      .next { s with outTst := false, events := s.events ++ [.clr .tst], busy := false, micro := [] } ∧
    exec .setTst s =
      .next { s with outTst := true, events := s.events ++ [.set .tst], busy := false, micro := [] }

/-- R92 and R76: a pulse gives exactly one rising edge whatever TCK was, and leaves TCK high; the pseudo-instructions expand to the
commands R76 gives, and `CLR_TCK` then `SET_TCK` is such a pulse. -/
def Obligations.PulseIsOneRisingEdge : Prop :=
  pulse = [.clrLine .tck, .setLine .tck] ∧
  (∀ s : State, performAll pulse s =
    { s with outTck := true, tap := tapNext s.tap s.outTms, events := s.events ++ [.clr .tck, .set .tck] }) ∧
  (expandPseudo .pulseTck = some [.clrTck, .setTck] ∧
    ∀ (f : Nat) (d : Half), expandPseudo (.shift f d) =
      if f = 8 then some [.shift8 d] else if f = 16 then some [.shift16 d] else none) ∧
  (∀ s : State, execAll [.clrTck, .setTck] s =
    .next { s with
      outTck := true
      tap := tapNext s.tap s.outTms
      events := s.events ++ [.clr .tck, .set .tck]
      busy := false
      micro := [] })

/-! Sample and delays -/

/-- R108: `result` is the TDO level zero-extended, nothing moves; the answer is the target's next, or TDI in the loopback rig; two in a
row may differ. -/
def Obligations.ScanTdoStoresTheSample : Prop :=
  decode 0x20000000#32 = .ok .scanTdo ∧
  (∀ s : State, ∃ v : Bool,
    exec .scanTdo s =
      .next { s with
        result := 0#15 ++ BitVec.ofBool v
        events := s.events ++ [.rd v]
        tdoSource := (takeAnswers [s.outTdi] s.tdoSource s.draws).2.1
        draws := (takeAnswers [s.outTdi] s.tdoSource s.draws).2.2
        busy := false
        micro := [] } ∧
    (s.tdoSource = .loopback → v = s.outTdi) ∧
    (∀ b rest, s.tdoSource = .target (b :: rest) → v = b)) ∧
  (∃ s t u : State, exec .scanTdo s = .next t ∧ exec .scanTdo t = .next u ∧ t.result ≠ u.result)

/-- Section 4 (R106, R107): a delay emits its one `Wait` event, also for 0, and changes nothing else. -/
def Obligations.DelaysEmitOneWait : Prop :=
  ∀ (n : Half) (s : State),
    exec (.delayUs n) s =
      .next { s with events := s.events ++ [.waitUs n.toNat], busy := false, micro := [] } ∧
    exec (.delayMs n) s =
      .next { s with events := s.events ++ [.waitMs n.toNat], busy := false, micro := [] }

/-! Shifts (spec/41_shift.md) -/

/-- R122, R124: `SHIFT.8`, from any state and for any 16-bit datum: its events in order, its ten edges, its result, its end state.
That the hidden `so`, `si` and `cnt` still hold after the command what R122 last wrote to them is the model's: log entry 21. -/
def Obligations.Shift8RunsTheShift : Prop :=
  (∀ b : Octet, decode (0x400800#24 ++ b) = .ok (.shift8 (0#8 ++ b))) ∧
  ∀ (d : Half) (s : State),
    exec (.shift8 d) s =
      .next { s with
        outTms := false
        outTck := true
        tclkLatch := s.outTdi
        tap := tapWalk s.tap (List.replicate 7 s.outTms ++ [true, true, false])
        result := assemble (shiftAnswers .eight d s).1
        so := d
        si := assemble (shiftAnswers .eight d s).1
        cnt := 0#5
        events := s.events ++ shiftEvents .eight d s.outTdi (shiftAnswers .eight d s).1
        tdoSource := (shiftAnswers .eight d s).2.1
        draws := (shiftAnswers .eight d s).2.2
        busy := false
        micro := [] } ∧
    (shiftEvents .eight d s.outTdi (shiftAnswers .eight d s).1).length = 39 ∧
    (edgeLevels (wiresOf s) (shiftEvents .eight d s.outTdi (shiftAnswers .eight d s).1)).length = 10 ∧
    (rdValues (shiftEvents .eight d s.outTdi (shiftAnswers .eight d s).1)).length = 8

/-- R122, R125: `SHIFT.16`, from any state and for every datum: its events in order, its eighteen edges, its result, its end state.
That the hidden `so`, `si` and `cnt` still hold after the command what R122 last wrote to them is the model's: log entry 21. -/
def Obligations.Shift16RunsTheShift : Prop :=
  (∀ d : Half, decode (0x4010#16 ++ d) = .ok (.shift16 d)) ∧
  ∀ (d : Half) (s : State),
    exec (.shift16 d) s =
      .next { s with
        outTms := false
        outTck := true
        tclkLatch := s.outTdi
        tap := tapWalk s.tap (List.replicate 15 s.outTms ++ [true, true, false])
        result := assemble (shiftAnswers .sixteen d s).1
        so := d
        si := assemble (shiftAnswers .sixteen d s).1
        cnt := 0#5
        events := s.events ++ shiftEvents .sixteen d s.outTdi (shiftAnswers .sixteen d s).1
        tdoSource := (shiftAnswers .sixteen d s).2.1
        draws := (shiftAnswers .sixteen d s).2.2
        busy := false
        micro := [] } ∧
    (shiftEvents .sixteen d s.outTdi (shiftAnswers .sixteen d s).1).length = 71 ∧
    (edgeLevels (wiresOf s) (shiftEvents .sixteen d s.outTdi (shiftAnswers .sixteen d s).1)).length = 18 ∧
    (rdValues (shiftEvents .sixteen d s.outTdi (shiftAnswers .sixteen d s).1)).length = 16

/-- R123: bit `format-1-k` of `si` and of `result` is the `k`-th value read, and the bits from `format` up are 0.
That the hidden `si` still holds the value after the command is the model's: log entry 21. -/
def Obligations.ResultIsTheReadsMostSignificantFirst : Prop :=
  ∀ (f : ShiftFormat) (d : Half) (s t : State), exec (shiftCommand f d) s = .next t →
    (rdValues (newEvents s t)).length = formatBits f ∧
    (∀ (k : Nat) (v : Bool), (rdValues (newEvents s t))[k]? = some v →
      t.result.getLsbD (formatBits f - 1 - k) = v ∧ t.si.getLsbD (formatBits f - 1 - k) = v) ∧
    (∀ j : Nat, formatBits f ≤ j → t.result.getLsbD j = false ∧ t.si.getLsbD j = false)

/-- R127: every command that contains a `Shift` leaves TDI as it was and has it so at its two trailing edges; from the intended start
the data edges of a bare shift lie in the shift and exit states, and Run-Test/Idle comes at the last edge. -/
def Obligations.TclkIsPreservedAcrossEveryShift : Prop :=
  (∀ (i : Instr) (s t : State), containsShift i = true → exec i s = .next t →
    t.outTdi = s.outTdi ∧
    ∃ before : List (Bool × Bool), ∃ a b : Bool,
      edgeLevels (wiresOf s) (newEvents s t) = before ++ [(a, s.outTdi), (b, s.outTdi)]) ∧
  (∀ (f : ShiftFormat) (d : Half) (s t : State), s.outTms = false → exec (shiftCommand f d) s = .next t →
    (s.tap = .shiftDr →
      edgeTaps (viewOf s) (newEvents s t) =
        List.replicate (formatBits f - 1) .shiftDr ++ [.exit1Dr, .updateDr, .runTestIdle]) ∧
    (s.tap = .shiftIr →
      edgeTaps (viewOf s) (newEvents s t) =
        List.replicate (formatBits f - 1) .shiftIr ++ [.exit1Ir, .updateIr, .runTestIdle]))

/-- R128: in the loopback rig a sample is the current TDI, `Shift(16, x)` returns `x` and `Shift(8, x)` returns `x[7:0]`. -/
def Obligations.LoopbackReturnsTheDatum : Prop :=
  ∀ (x : Half) (s : State), s.tdoSource = .loopback →
    tdoLevel s = s.outTdi ∧
    (∃ t : State, exec (.shift16 x) s = .next t ∧ t.result = x) ∧
    (∃ t : State, exec (.shift8 x) s = .next t ∧ t.result = 0#8 ++ x.extractLsb' 0 8)

/-- R129: what a `Shift` of `format` bits emits, counted. -/
def Obligations.ShiftEventCounts : Prop :=
  ∀ (f : ShiftFormat) (d : Half) (s t : State), exec (shiftCommand f d) s = .next t →
    (newEvents s t).length = 4 * formatBits f + 7 ∧
    (rdValues (newEvents s t)).length = formatBits f ∧
    (edgeLevels (wiresOf s) (newEvents s t)).length = formatBits f + 2 ∧
    (newEvents s t).countP (fun e => e = .set .tck ∨ e = .clr .tck) = 2 * formatBits f + 4 ∧
    (newEvents s t).countP (fun e => e = .set .tdi ∨ e = .clr .tdi) = formatBits f + 1 ∧
    (newEvents s t).countP (fun e => e = .set .tms ∨ e = .clr .tms) = 2 ∧
    (∀ e ∈ newEvents s t, (∀ n, e ≠ .waitUs n ∧ e ≠ .waitMs n) ∧
      e ≠ .set .rst ∧ e ≠ .clr .rst ∧ e ≠ .set .tst ∧ e ≠ .clr .tst)

/-- R126: from any two states the events of a shift are the same but for the values read and the restore of TDI; `tap` follows the TMS
levels from any start, to Run-Test/Idle from the intended one, with the two examples of the rule; no error. -/
def Obligations.ShiftChecksNothing : Prop :=
  (∀ (f : ShiftFormat) (d : Half) (s s' t t' : State),
    exec (shiftCommand f d) s = .next t → exec (shiftCommand f d) s' = .next t' →
      ((newEvents s t).map eraseRd).eraseIdx (4 * formatBits f + 1) =
        ((newEvents s' t').map eraseRd).eraseIdx (4 * formatBits f + 1) ∧
      t.err = s.err) ∧
  (∀ (f : ShiftFormat) (d : Half) (s : State), ∃ t : State, exec (shiftCommand f d) s = .next t ∧
    t.tap = tapWalk s.tap (List.replicate (formatBits f - 1) s.outTms ++ [true, true, false])) ∧
  (∀ (f : ShiftFormat) (d : Half) (s t : State), s.outTms = false → exec (shiftCommand f d) s = .next t →
    s.tap = .shiftDr ∨ s.tap = .shiftIr → t.tap = .runTestIdle) ∧
  (∀ (d : Half) (s t : State), s.outTms = false → exec (.shift8 d) s = .next t →
    (s.tap = .runTestIdle → t.tap = .captureIr) ∧ (s.tap = .pauseDr → t.tap = .runTestIdle))

/-! Scans and RESET_TAP (spec/42_scan.md, spec/43_reset_tap.md) -/

/-- R140: `DR_SHIFT16`, from any state: prologue and shift, 79 events, 21 edges, the end state. What the hidden `so`, `si`
and `cnt` hold after the command is the model's: log entry 21. -/
def Obligations.DrShift16RunsTheScan : Prop :=
  (∀ d : Half, decode (0x4100#16 ++ d) = .ok (.drShift16 d)) ∧
  ∀ (d : Half) (s : State),
    exec (.drShift16 d) s =
      .next { s with
        outTms := false
        outTck := true
        tclkLatch := s.outTdi
        tap := tapWalk s.tap ([true, false, false] ++ List.replicate 15 false ++ [true, true, false])
        result := assemble (shiftAnswers .sixteen d s).1
        so := d
        si := assemble (shiftAnswers .sixteen d s).1
        cnt := 0#5
        events := s.events ++ drPrologueEvents ++ shiftEvents .sixteen d s.outTdi (shiftAnswers .sixteen d s).1
        tdoSource := (shiftAnswers .sixteen d s).2.1
        draws := (shiftAnswers .sixteen d s).2.2
        busy := false
        micro := [] } ∧
    (drPrologueEvents ++ shiftEvents .sixteen d s.outTdi (shiftAnswers .sixteen d s).1).length = 79 ∧
    (edgeLevels (wiresOf s)
      (drPrologueEvents ++ shiftEvents .sixteen d s.outTdi (shiftAnswers .sixteen d s).1)).length = 21 ∧
    (rdValues (drPrologueEvents ++ shiftEvents .sixteen d s.outTdi (shiftAnswers .sixteen d s).1)).length = 16

/-- R141: `IR_SHIFT`, from any state: prologue and shift, 49 events, 14 edges, the end state. What the hidden `so`, `si`
and `cnt` hold after the command is the model's: log entry 21. -/
def Obligations.IrShiftRunsTheScan : Prop :=
  (∀ b : Octet, decode (0x420000#24 ++ b) = .ok (.irShift (0#8 ++ b))) ∧
  ∀ (i : Half) (s : State),
    exec (.irShift i) s =
      .next { s with
        outTms := false
        outTck := true
        tclkLatch := s.outTdi
        tap := tapWalk s.tap ([true, true, false, false] ++ List.replicate 7 false ++ [true, true, false])
        result := assemble (shiftAnswers .eight i s).1
        so := i
        si := assemble (shiftAnswers .eight i s).1
        cnt := 0#5
        events := s.events ++ irPrologueEvents ++ shiftEvents .eight i s.outTdi (shiftAnswers .eight i s).1
        tdoSource := (shiftAnswers .eight i s).2.1
        draws := (shiftAnswers .eight i s).2.2
        busy := false
        micro := [] } ∧
    (irPrologueEvents ++ shiftEvents .eight i s.outTdi (shiftAnswers .eight i s).1).length = 49 ∧
    (edgeLevels (wiresOf s)
      (irPrologueEvents ++ shiftEvents .eight i s.outTdi (shiftAnswers .eight i s).1)).length = 14 ∧
    (rdValues (irPrologueEvents ++ shiftEvents .eight i s.outTdi (shiftAnswers .eight i s).1)).length = 8

/-- R142: a scan that starts in Run-Test/Idle ends there; from any start TMS ends 0, TCK 1 and TDI as it was,
the events are the same but for the reads and the restore, and `tap` follows TMS; the rule's example from
Test-Logic-Reset, edge by edge. -/
def Obligations.ScansStartAndEndInRunTestIdle : Prop :=
  (∀ (d : Half) (s t : State), exec (.drShift16 d) s = .next t ∨ exec (.irShift d) s = .next t →
    (s.tap = .runTestIdle → t.tap = .runTestIdle) ∧
    t.outTms = false ∧ t.outTck = true ∧ t.outTdi = s.outTdi) ∧
  (∀ (d : Half) (s t : State), exec (.drShift16 d) s = .next t →
    t.tap = tapWalk s.tap ([true, false, false] ++ List.replicate 15 false ++ [true, true, false]) ∧
    ∃ rds : List Bool, newEvents s t = drPrologueEvents ++ shiftEvents .sixteen d s.outTdi rds) ∧
  (∀ (d : Half) (s t : State), exec (.irShift d) s = .next t →
    t.tap = tapWalk s.tap ([true, true, false, false] ++ List.replicate 7 false ++ [true, true, false]) ∧
    ∃ rds : List Bool, newEvents s t = irPrologueEvents ++ shiftEvents .eight d s.outTdi rds) ∧
  (∀ (d : Half) (s t : State), s.tap = .testLogicReset → exec (.drShift16 d) s = .next t →
    t.tap = .captureIr ∧
    edgeTaps (viewOf s) (newEvents s t) =
      [.testLogicReset] ++ List.replicate 17 .runTestIdle ++ [.selectDrScan, .selectIrScan, .captureIr])

/-- The wrappers are exactly their prologue followed by the shift (section 2 of R140 and R141, P4): the same commands issued by hand
leave the same state and the same events. -/
def Obligations.ScansEqualTheirPrologueThenShift : Prop :=
  ∀ (d : Half) (s : State),
    execAll [.setTms, .clrTck, .setTck, .clrTms, .clrTck, .setTck, .clrTck, .setTck, .shift16 d] s =
      exec (.drShift16 d) s ∧
    execAll [.setTms, .clrTck, .setTck, .clrTck, .setTck, .clrTms, .clrTck, .setTck, .clrTck, .setTck, .shift8 d] s =
      exec (.irShift d) s

/-- R150: `RESET_TAP`, from any state: its 23 events, its end state and frame, Test-Logic-Reset after the six pulses, seven or eight
edges by the level of TCK at the start. -/
def Obligations.ResetTapRunsItsTwelveSteps : Prop :=
  decode 0x50000000#32 = .ok .resetTap ∧
  resetTapEvents.length = 23 ∧ rdValues resetTapEvents = [] ∧
  ∀ s : State,
    exec .resetTap s =
      .next { s with
        outTms := true
        outTdi := true
        outTck := true
        tap := .runTestIdle
        events := s.events ++ resetTapEvents
        busy := false
        micro := [] } ∧
    (watchAll (viewOf s) (resetTapEvents.take 15)).tap = .testLogicReset ∧
    (watchAll (viewOf s) (resetTapEvents.take 18)).tap = .runTestIdle ∧
    (edgeLevels (wiresOf s) resetTapEvents).length = if s.outTck then 7 else 8

/-- R153: from every start state `RESET_TAP` leaves Run-Test/Idle with TMS, TCK and TDI high, whatever state the target's TAP was in:
a target that sees the same edges agrees with the copy; it does not reset `err`, `result`, `tclk_latch`, RST or TST. -/
def Obligations.ResetTapBringsTheTargetIntoAgreement : Prop :=
  ∀ s : State, ∃ t : State, exec .resetTap s = .next t ∧
    t.tap = .runTestIdle ∧ t.outTms = true ∧ t.outTck = true ∧ t.outTdi = true ∧
    (∀ q : Tap, (watchAll ⟨wiresOf s, q⟩ (newEvents s t)).tap = t.tap) ∧
    t.err = s.err ∧ t.result = s.result ∧ t.tclkLatch = s.tclkLatch ∧ t.outRst = s.outRst ∧ t.outTst = s.outTst

/-- R182: Run-Test/Idle holds by itself under every command but a bare `SHIFT` and TCK moved by hand. -/
def Obligations.RunTestIdleIsKeptBetweenScans : Prop :=
  ∀ (i : Instr) (s : State), keepsScansSafe i = true → s.tap = .runTestIdle →
    ∃ t : State, exec i s = .next t ∧ t.tap = .runTestIdle

/-! The whole machine -/

/-- Section 1 of spec/60_exceptions.md (R160): no command can fail once decoded, whatever the state; each ends with `busy` 0, and sets
no `err`. -/
def Obligations.EveryCommandRunsToItsEnd : Prop :=
  ∀ (i : Instr) (s : State), ∃ t : State, exec i s = .next t ∧ Idle t ∧ t.err = s.err ∧
    t.events = s.events ++ newEvents s t

/-- The columns 'Written by' of the summary of state (spec/10_state.md section 1): who may change what. That the
hidden registers keep their values under the other commands is the model's: log entry 21. -/
def Obligations.OnlyTheNamedCommandsWriteEachRegister : Prop :=
  ∀ (i : Instr) (s t : State), exec i s = .next t →
    (i ∉ ([.setTms, .clrTms, .resetTap] : List Instr) → containsShift i = false → t.outTms = s.outTms) ∧
    (i ∉ ([.setTdi, .clrTdi, .setTclk, .clrTclk, .resetTap] : List Instr) → t.outTdi = s.outTdi) ∧
    (i ∉ ([.setTck, .clrTck, .resetTap] : List Instr) → containsShift i = false → t.outTck = s.outTck) ∧
    (i ∉ ([.setRst, .clrRst] : List Instr) → t.outRst = s.outRst) ∧
    (i ∉ ([.setTst, .clrTst] : List Instr) → t.outTst = s.outTst) ∧
    (containsShift i = false → t.tclkLatch = s.tclkLatch ∧ t.so = s.so ∧ t.si = s.si ∧ t.cnt = s.cnt) ∧
    (i ∉ ([.setTck, .resetTap] : List Instr) → containsShift i = false → t.tap = s.tap) ∧
    (i ≠ .scanTdo → containsShift i = false → t.result = s.result) ∧
    t.err = s.err ∧ t.hostQueue = s.hostQueue ∧ t.hostReads = s.hostReads

/-- No command reads the old `tap`, `result`, `tclk_latch`, `err` or hidden `so`, `si`, `cnt` to decide what to do (sections 1, 3, 4 and 5
of spec/10_state.md, R20, R25, R30, R33): runs that differ only in these emit the same events and differ only in these at the end, and
after a shift or a scan the shift's own registers agree too. What hidden registers hold between commands is log entry 21. -/
def Obligations.HiddenRegistersDecideNothing : Prop :=
  ∀ (i : Instr) (s : State) (q : Tap) (r a b : Half) (l e : Bool) (c : BitVec 5),
    ∃ (t : State) (q' : Tap) (r' a' b' : Half) (l' : Bool) (c' : BitVec 5),
      exec i s = .next t ∧
      exec i { s with tap := q, result := r, tclkLatch := l, err := e, so := a, si := b, cnt := c } =
        .next { t with tap := q', result := r', tclkLatch := l', err := e, so := a', si := b', cnt := c' } ∧
      (containsShift i = true → r' = t.result ∧ l' = t.tclkLatch ∧ a' = t.so ∧ b' = t.si ∧ c' = t.cnt)

/-- One access at a time (section 2 of spec/20_memory.md): a micro-step emits at most one event, and moves no line but that event's.
The division into micro-steps is the model's: a pulse, one micro-step in R92, is two here (log entry 22). -/
def Obligations.EachMicroStepMakesAtMostOneAccess : Prop :=
  ∀ (m : MicroStep) (s : State),
    ((perform m s).events = s.events ∧ wiresOf (perform m s) = wiresOf s) ∨
    ∃ e : PinEvent, (perform m s).events = s.events ++ [e] ∧ wiresOf (perform m s) = wireEvent (wiresOf s) e

/-- The masks and words of the GPIO triple (R51 to R53): a written mask has exactly the bit of its signal; a read word has the TDO level
at its pin and is otherwise unconstrained. -/
def Obligations.GpioMasksAreOneHot : Prop :=
  ∀ p : PinMap, p.Wf →
    (∀ (l : Line) (b : Nat), (oneHot p l).getLsbD b = decide (b = pinOf p l)) ∧
    pinOfSignal p .tclk = pinOfSignal p .tdi ∧
    (∀ (others : BitVec p.width) (v : Bool), (inputWord p others v).getLsbD p.tdo = v ∧
      ∀ b : Nat, b ≠ p.tdo → (inputWord p others v).getLsbD b = others.getLsbD b)

/-- The GPIO port refines the output latches (R51, R52, R54, R57): under every pin map, a port that shows the latches before a step shows
them after the accesses of the step, and the bits of other users are untouched. -/
def Obligations.PortShowsTheLatchesAfterEveryStep : Prop :=
  ∀ (p : PinMap) (others lines : BitVec p.width) (s t : State), p.Wf → PortShows p lines s →
    step s = .next t → notReset s.hostQueue.head? = true →
    PortShows p (portAfterEvents p others lines (newEvents s t)) t ∧
    ∀ b : Nat, (∀ l : Line, b ≠ pinOf p l) →
      (portAfterEvents p others lines (newEvents s t)).getLsbD b = lines.getLsbD b

/-- Every step keeps the invariant: `busy` exactly while something is left to do, what is left is the end of a legal command's
micro-steps, and `cnt` counts the bits still to go (R10, R32, R33). The division into micro-steps is the model's: log entry 22. -/
def Obligations.StepKeepsTheInvariant : Prop :=
  ∀ s t : State, Inv s → step s = .next t → Inv t

/-- The invariant holds after power-on, and after the reset input at any state. -/
def Obligations.InvariantHoldsAfterReset : Prop :=
  Inv State.reset ∧ ∀ s : State, Inv (resetEvent s)

/-- A step of an idle block whose host writes a legal word to `CMD` is `exec` of the command, with the move taken from the host's queue;
when the host's next move comes early the command is accepted and goes on up to it (that moves come from a queue, and where an early
one lands, is the model's: log entries 6, 9, 22). -/
def Obligations.StepRunsTheDecodedCommand : Prop :=
  (∀ (s : State) (w : Word) (i : Instr) (e : Option Nat) (rest : List HostMove), s.busy = false → decode w = .ok i →
    (∀ mv ∈ rest.head?, mv.early = none) →
    step { s with hostQueue := ⟨e, .write 0x0 32 w⟩ :: rest } = exec i { s with hostQueue := rest }) ∧
  (∀ (s : State) (w : Word) (i : Instr) (e : Option Nat) (k : Nat) (a : HostAction) (rest : List HostMove),
    s.busy = false → decode w = .ok i →
    step { s with hostQueue := ⟨e, .write 0x0 32 w⟩ :: ⟨some k, a⟩ :: rest } =
      .next (advanceBy k (accept (commandSteps i) { s with hostQueue := ⟨some k, a⟩ :: rest })))

/-- R34: a legal word runs to its end and `busy` is 0 again; an illegal one is refused (R161); while `busy` is 1 any word is refused
(R162); a read of `CMD`, also while a command runs, returns 0 and changes nothing; after reset no command is pending. -/
def Obligations.CmdAcceptsRefusesAndReadsZero : Prop :=
  (∀ (s : State) (w : Word) (i : Instr), Idle s → decode w = .ok i →
    ∃ t : State, step { s with hostQueue := [⟨none, .write 0x0 32 w⟩] } = .next t ∧
      exec i { s with hostQueue := [] } = .next t ∧ t.busy = false) ∧
  (∀ (s : State) (w : Word) (c : IllegalClass), Idle s → decode w = .error c →
    step { s with hostQueue := [⟨none, .write 0x0 32 w⟩] } = .next { s with hostQueue := [], err := true }) ∧
  (∀ (s : State) (w : Word), s.busy = true →
    step { s with hostQueue := [⟨none, .write 0x0 32 w⟩] } = .next (finish { s with hostQueue := [], err := true })) ∧
  (∀ (s : State) (e : Option Nat) (rest : List HostMove),
    step { s with hostQueue := ⟨e, .read 0x0 32⟩ :: rest } =
      .next (workOn { s with hostQueue := rest, hostReads := s.hostReads ++ [0#32] })) ∧
  (∀ s : State, Idle s → workOn s = s) ∧
  (∀ (s : State) (ms : List MicroStep), (accept ms s).busy = true) ∧
  Idle State.reset

/-- R35: a read of `RESULT`, also while a command runs, returns `result` below sixteen zeros and has no side effect; a write is
ignored. -/
def Obligations.ResultRegisterReads : Prop :=
  (∀ s : State, (resultWord s).extractLsb' 0 16 = s.result ∧ (resultWord s).extractLsb' 16 16 = 0#16) ∧
  (∀ (s : State) (e : Option Nat) (w : Word) (rest : List HostMove),
    step { s with hostQueue := ⟨e, .read 0x4 32⟩ :: rest } =
      .next (workOn { s with hostQueue := rest, hostReads := s.hostReads ++ [resultWord s] }) ∧
    step { s with hostQueue := ⟨e, .write 0x4 32 w⟩ :: rest } = .next (workOn { s with hostQueue := rest })) ∧
  (∀ s : State, Idle s → workOn s = s)

/-- R37: the layout of `STATUS` and its reset value where there is one; a read, also while a command runs, returns it and has no side effect; a write is ignored. -/
def Obligations.StatusRegisterLayout : Prop :=
  (∀ s : State,
    (statusWord s).getLsbD 0 = s.busy ∧ (statusWord s).getLsbD 1 = s.err ∧
    (statusWord s).extractLsb' 2 2 = 0#2 ∧ (statusWord s).extractLsb' 4 4 = tapCode s.tap ∧
    (statusWord s).getLsbD 8 = s.tclkLatch ∧ (statusWord s).getLsbD 9 = s.outTms ∧
    (statusWord s).getLsbD 10 = s.outTdi ∧ (statusWord s).getLsbD 11 = s.outTck ∧
    (statusWord s).getLsbD 12 = s.outRst ∧ (statusWord s).getLsbD 13 = s.outTst ∧
    (statusWord s).extractLsb' 14 18 = 0#18 ∧ (statusWord (resetEvent s)).extractLsb' 0 8 = 0#8) ∧
  (∀ (s : State) (e : Option Nat) (w : Word) (rest : List HostMove),
    step { s with hostQueue := ⟨e, .read 0x8 32⟩ :: rest } =
      .next (workOn { s with hostQueue := rest, hostReads := s.hostReads ++ [statusWord s] }) ∧
    step { s with hostQueue := ⟨e, .write 0x8 32 w⟩ :: rest } = .next (workOn { s with hostQueue := rest })) ∧
  (∀ s : State, Idle s → workOn s = s)

/-- R56 (section 2 of spec/20_memory.md, U9): a host access that is not 32 bits wide, or at another offset, is given no meaning. -/
def Obligations.OtherHostAccessesAreRefused : Prop :=
  ∀ (s : State) (e : Option Nat) (offset : Int) (width : Nat) (w : Word) (rest : List HostMove),
    (width ≠ 32 ∨ (offset ≠ 0x0 ∧ offset ≠ 0x4 ∧ offset ≠ 0x8)) →
    step { s with hostQueue := ⟨e, .read offset width⟩ :: rest } = .refused .unsupportedHostAccess ∧
    step { s with hostQueue := ⟨e, .write offset width w⟩ :: rest } = .refused .unsupportedHostAccess

/-- R162, R164: a word, legal or not, that arrives while a command runs sets `err` and is dropped; the running command is not disturbed
and ends as it would have. It may arrive after any number of micro-steps (log entries 9, 22). -/
def Obligations.EarlyWordsDoNotDisturbTheCommand : Prop :=
  ∀ (s : State) (w w' : Word) (i : Instr) (e : Option Nat) (k : Nat), Idle s → decode w = .ok i →
    k < (commandSteps i).length →
    ∃ mid t : State,
      step { s with hostQueue := [⟨e, .write 0x0 32 w⟩, ⟨some k, .write 0x0 32 w'⟩] } = .next mid ∧
      mid.busy = true ∧ mid.err = s.err ∧
      exec i { s with hostQueue := [] } = .next t ∧ step mid = .next { t with err := true }

/-- R166 and R32: `err` is sticky under every move but the reset input, and it is only ever set by a refusal: a word written while
busy, or one that does not decode; with `err` at 1 a legal command does all it does with `err` at 0. -/
def Obligations.ErrIsStickyAndSetByRefusalsOnly : Prop :=
  (∀ s t : State, step s = .next t → notReset s.hostQueue.head? = true → s.err = true → t.err = true) ∧
  (∀ s t : State, step s = .next t → s.err = false → t.err = true →
    ∃ (e : Option Nat) (w : Word) (rest : List HostMove), s.hostQueue = ⟨e, .write 0x0 32 w⟩ :: rest ∧
      (s.busy = true ∨ ∃ c, decode w = .error c)) ∧
  (∀ (s : State) (e : Option Nat) (rest : List HostMove), ∃ t : State,
    step { s with hostQueue := ⟨e, .reset⟩ :: rest } = .next t ∧ t.err = false) ∧
  (∀ (i : Instr) (s t : State), exec i s = .next t → exec i { s with err := true } = .next { t with err := true })

/-- R161, R165: an undecodable word written to an idle block: `err` becomes 1, the word is dropped, nothing else changes, `busy` stays 0,
no pin event. -/
def Obligations.IllegalWordSetsErrOnly : Prop :=
  ∀ (s : State) (e : Option Nat) (w : Word) (rest : List HostMove), Idle s →
    (∀ r ∈ opcodeRows, w &&& r.mask ≠ r.value) →
    step { s with hostQueue := ⟨e, .write 0x0 32 w⟩ :: rest } = .next { s with hostQueue := rest, err := true }

/-- R39: the values the spec gives for reset, at power-on and by the reset input at any state; the reset makes no pin event. What R39
leaves unspecified is not mentioned. -/
def Obligations.ResetValues : Prop :=
  (State.reset.tap = .testLogicReset ∧ State.reset.err = false ∧ State.reset.busy = false ∧ State.reset.micro = [] ∧
    State.reset.events = []) ∧
  ∀ (s : State) (e : Option Nat) (rest : List HostMove), ∃ t : State,
    step { s with hostQueue := ⟨e, .reset⟩ :: rest } = .next t ∧
    t.tap = .testLogicReset ∧ t.err = false ∧ t.busy = false ∧ t.micro = [] ∧ t.events = s.events

/-- Section 3 of spec/70_reset_and_hazards.md (R191): with no move of the host to come an idle block stays as it is, and a running command
comes to its end. -/
def Obligations.WithoutAMoveTheBlockFinishesAndRests : Prop :=
  (∀ s : State, s.hostQueue = [] → ∃ t : State, step s = .next t ∧ Idle t ∧ t.err = s.err) ∧
  (∀ s : State, s.hostQueue = [] → Idle s → step s = .next s)

/-- Section 4 of spec/20_memory.md (R5, R64, R56): under every `HOST_BASE` the registers are at its three offsets; an access elsewhere, below
the base too, or of another width is refused; `CMD`, `RESULT` and `STATUS` are reached by their addresses in a step. The three
addresses of the GPIO triple are distinct. -/
def Obligations.RegistersLieAtTheirAddresses : Prop :=
  (∀ (m : AddressMap) (o n : Nat) (w : Word),
    busAction m (.read (m.hostBase + o) n) = .read o n ∧ busAction m (.write (m.hostBase + o) n w) = .write o n w) ∧
  (∀ (m : AddressMap) (s : State) (e : Option Nat) (a n : Nat) (w : Word) (rest : List HostMove),
    (n ≠ 32 ∨ (a ≠ m.hostBase + 0x0 ∧ a ≠ m.hostBase + 0x4 ∧ a ≠ m.hostBase + 0x8)) →
    step { s with hostQueue := ⟨e, busAction m (.read a n)⟩ :: rest } = .refused .unsupportedHostAccess ∧
    step { s with hostQueue := ⟨e, busAction m (.write a n w)⟩ :: rest } = .refused .unsupportedHostAccess) ∧
  (∀ (m : AddressMap) (s : State) (e : Option Nat) (w : Word) (rest : List HostMove), Idle s →
    step { s with hostQueue := ⟨e, busAction m (.read (m.hostBase + 0x4) 32)⟩ :: rest } =
      .next { s with hostQueue := rest, hostReads := s.hostReads ++ [resultWord s] } ∧
    step { s with hostQueue := ⟨e, busAction m (.read (m.hostBase + 0x8) 32)⟩ :: rest } =
      .next { s with hostQueue := rest, hostReads := s.hostReads ++ [statusWord s] } ∧
    step { s with hostQueue := ⟨e, busAction m (.write m.hostBase 32 w)⟩ :: rest } =
      step { s with hostQueue := ⟨e, .write 0x0 32 w⟩ :: rest }) ∧
  (∀ (m : AddressMap) (n : Nat) (x y v : BitVec n), m.Wf →
    [gpioAddress m (.writeSet x), gpioAddress m (.writeClr y), gpioAddress m (.readIn v)].Nodup)
end

