-- ==== Sys2Proof/Laws/Decode.lean ====
section
/-! SUPPORT. The three masks of the opcode table as tests of fields, and the fields of an encoded word (spec/30_encoding.md R70 to
R72): proofs about decoding cite these instead of working bit by bit. -/

namespace Sys2Proof

/-- A word is its fields, from the top (R70). -/
theorem word_eq_fields (w : Word) : w = opField w ++ fmtField w ++ immField w := by
  unfold opField fmtField immField
  apply BitVec.eq_of_getLsbD_eq
  intro i hi
  simp only [BitVec.getLsbD_append, BitVec.getLsbD_extractLsb']
  by_cases h1 : i < 16
  · simp [h1]
  · by_cases h2 : i - 16 < 8
    · have h3 : 16 + (i - 16) = i := by omega
      simp [h1, h2, h3]
    · have h3 : 24 + (i - 16 - 8) = i := by omega
      have h4 : i - 16 - 8 < 8 := by omega
      simp [h1, h2, h3, h4]

/-- The mask of a row without operand tests the whole word. -/
theorem and_mask_all (w : Word) : w &&& 0xFFFFFFFF#32 = w := by
  have : (0xFFFFFFFF#32) = BitVec.allOnes 32 := by decide
  rw [this, BitVec.and_allOnes]

theorem mask_high16 : (0xFFFF0000#32) = BitVec.allOnes 16 ++ 0#16 := by decide

theorem mask_high24 : (0xFFFFFF00#32) = BitVec.allOnes 24 ++ 0#8 := by decide

/-- The mask of a row with a 16-bit operand tests the upper half. -/
theorem and_mask_high16 (hi lo : Half) : (hi ++ lo) &&& 0xFFFF0000#32 = hi ++ 0#16 := by
  rw [mask_high16]
  ext i h
  simp only [BitVec.getElem_and, BitVec.getElem_append, BitVec.getElem_allOnes]
  split <;> simp

/-- The mask of a row with an eight-bit operand tests the upper 24 bits. -/
theorem and_mask_high24 (hi : BitVec 24) (lo : Octet) : (hi ++ lo) &&& 0xFFFFFF00#32 = hi ++ 0#8 := by
  rw [mask_high24]
  ext i h
  simp only [BitVec.getElem_and, BitVec.getElem_append, BitVec.getElem_allOnes]
  split <;> simp

theorem opField_append (op fmt : Octet) (imm : Half) : opField (op ++ fmt ++ imm) = op := by
  unfold opField
  ext i hi
  simp only [BitVec.getElem_extractLsb', BitVec.getLsbD_append]
  have h1 : ¬ (24 + i < 16) := by omega
  have h2 : ¬ (24 + i - 16 < 8) := by omega
  have h3 : 24 + i - 16 - 8 = i := by omega
  simp [h1, h2, h3, hi, BitVec.getLsbD_eq_getElem]

theorem fmtField_append (op fmt : Octet) (imm : Half) : fmtField (op ++ fmt ++ imm) = fmt := by
  unfold fmtField
  ext i hi
  simp only [BitVec.getElem_extractLsb', BitVec.getLsbD_append]
  have h1 : ¬ (16 + i < 16) := by omega
  have h2 : 16 + i - 16 < 8 := by omega
  have h3 : 16 + i - 16 = i := by omega
  simp [hi, BitVec.getLsbD_eq_getElem]

theorem immField_append (op fmt : Octet) (imm : Half) : immField (op ++ fmt ++ imm) = imm := by
  unfold immField
  ext i hi
  simp only [BitVec.getElem_extractLsb', BitVec.getLsbD_append]
  have h1 : 0 + i < 16 := by omega
  simp [hi, BitVec.getLsbD_eq_getElem]

/-- The fields of an encoded command (R70). -/
theorem encode_fields (i : Instr) :
    opField (encode i) = opcodeOf i ∧ fmtField (encode i) = formatOf i ∧ immField (encode i) = operandOf i :=
  ⟨opField_append .., fmtField_append .., immField_append ..⟩

/-- Two words are equal when their fields are. -/
theorem eq_iff_fields (w v : Word) :
    w = v ↔ opField w = opField v ∧ fmtField w = fmtField v ∧ immField w = immField v := by
  constructor
  · rintro rfl
    exact ⟨rfl, rfl, rfl⟩
  · rintro ⟨h1, h2, h3⟩
    rw [word_eq_fields w, h1, h2, h3, ← word_eq_fields v]

/-- `imm` is its two bytes (R72: `imm_hi`, `imm_lo`). -/
theorem immField_eq_bytes (w : Word) : immField w = w.extractLsb' 8 8 ++ w.extractLsb' 0 8 := by
  apply BitVec.eq_of_getLsbD_eq
  intro i hi
  simp only [immField, BitVec.getLsbD_append, BitVec.getLsbD_extractLsb']
  by_cases h1 : i < 8
  · simp [h1, hi]
  · have h3 : 8 + (i - 8) = i := by omega
    have h4 : i - 8 < 8 := by omega
    simp [h1, h3, h4, hi]

/-- The test of a row without operand, by fields (R72). -/
theorem matches_all_iff (w v : Word) :
    w &&& 0xFFFFFFFF#32 = v ↔ opField w = opField v ∧ fmtField w = fmtField v ∧ immField w = immField v := by
  rw [and_mask_all, eq_iff_fields]

/-- The test of a row with a 16-bit operand, by fields (R72). -/
theorem matches_high16_iff (w v : Word) :
    w &&& 0xFFFF0000#32 = v ↔ opField w = opField v ∧ fmtField w = fmtField v ∧ immField v = 0#16 := by
  have key : w &&& 0xFFFF0000#32 = opField w ++ fmtField w ++ 0#16 := by
    conv_lhs => rw [word_eq_fields w]
    exact and_mask_high16 _ _
  rw [key, eq_iff_fields, opField_append, fmtField_append, immField_append]
  exact ⟨fun h => ⟨h.1, h.2.1, h.2.2.symm⟩, fun h => ⟨h.1, h.2.1, h.2.2.symm⟩⟩

theorem and_high24_eq (w : Word) :
    w &&& 0xFFFFFF00#32 = opField w ++ fmtField w ++ (w.extractLsb' 8 8 ++ 0#8) := by
  have ha : ∀ a b c d : Octet, a ++ b ++ (c ++ d) = ((a ++ b ++ c : BitVec 24) ++ d : Word) := by
    intro a b c d
    simpa using (BitVec.append_assoc (x₁ := a ++ b) (x₂ := c) (x₃ := d)).symm
  conv_lhs => rw [word_eq_fields w, immField_eq_bytes]
  rw [ha, ha, and_mask_high24]

/-- The test of a row with an eight-bit operand, by fields (R72: `imm_hi` is held at 0 by the mask). -/
theorem matches_high24_iff (w v : Word) :
    w &&& 0xFFFFFF00#32 = v ↔
      opField w = opField v ∧ fmtField w = fmtField v ∧ w.extractLsb' 8 8 ++ 0#8 = immField v := by
  rw [and_high24_eq, eq_iff_fields, opField_append, fmtField_append, immField_append]

/-- The two bytes of the operand of an encoded command. -/
theorem encode_bytes (i : Instr) :
    (encode i).extractLsb' 8 8 = (operandOf i).extractLsb' 8 8 ∧
      (encode i).extractLsb' 0 8 = (operandOf i).extractLsb' 0 8 := by
  have h := immField_eq_bytes (encode i)
  rw [(encode_fields i).2.2] at h
  rw [h]
  exact ⟨(BitVec.extractLsb'_append_eq_left).symm, (BitVec.extractLsb'_append_eq_right).symm⟩

end Sys2Proof
end

