-- ==== Sys2Proof/Laws/State.lean ====
section
/-! SUPPORT. One lemma per field per update of the state, true by unfolding the update (spec/10_state.md R20). -/

namespace Sys2Proof.Machine

/-! `emit` -/

@[simp] theorem emit_outTms (e : PinEvent) (s : State) : (emit e s).outTms = s.outTms := rfl
@[simp] theorem emit_outTdi (e : PinEvent) (s : State) : (emit e s).outTdi = s.outTdi := rfl
@[simp] theorem emit_outTck (e : PinEvent) (s : State) : (emit e s).outTck = s.outTck := rfl
@[simp] theorem emit_outRst (e : PinEvent) (s : State) : (emit e s).outRst = s.outRst := rfl
@[simp] theorem emit_outTst (e : PinEvent) (s : State) : (emit e s).outTst = s.outTst := rfl
@[simp] theorem emit_tclkLatch (e : PinEvent) (s : State) : (emit e s).tclkLatch = s.tclkLatch := rfl
@[simp] theorem emit_tap (e : PinEvent) (s : State) : (emit e s).tap = s.tap := rfl
@[simp] theorem emit_result (e : PinEvent) (s : State) : (emit e s).result = s.result := rfl
@[simp] theorem emit_err (e : PinEvent) (s : State) : (emit e s).err = s.err := rfl
@[simp] theorem emit_busy (e : PinEvent) (s : State) : (emit e s).busy = s.busy := rfl
@[simp] theorem emit_so (e : PinEvent) (s : State) : (emit e s).so = s.so := rfl
@[simp] theorem emit_si (e : PinEvent) (s : State) : (emit e s).si = s.si := rfl
@[simp] theorem emit_cnt (e : PinEvent) (s : State) : (emit e s).cnt = s.cnt := rfl
@[simp] theorem emit_micro (e : PinEvent) (s : State) : (emit e s).micro = s.micro := rfl
@[simp] theorem emit_hostQueue (e : PinEvent) (s : State) : (emit e s).hostQueue = s.hostQueue := rfl
@[simp] theorem emit_hostReads (e : PinEvent) (s : State) : (emit e s).hostReads = s.hostReads := rfl
@[simp] theorem emit_events (e : PinEvent) (s : State) : (emit e s).events = s.events ++ [e] := rfl
@[simp] theorem emit_tdoSource (e : PinEvent) (s : State) : (emit e s).tdoSource = s.tdoSource := rfl
@[simp] theorem emit_draws (e : PinEvent) (s : State) : (emit e s).draws = s.draws := rfl

/-! `advanceTap` -/

@[simp] theorem advanceTap_outTms (s : State) : (advanceTap s).outTms = s.outTms := rfl
@[simp] theorem advanceTap_outTdi (s : State) : (advanceTap s).outTdi = s.outTdi := rfl
@[simp] theorem advanceTap_outTck (s : State) : (advanceTap s).outTck = s.outTck := rfl
@[simp] theorem advanceTap_outRst (s : State) : (advanceTap s).outRst = s.outRst := rfl
@[simp] theorem advanceTap_outTst (s : State) : (advanceTap s).outTst = s.outTst := rfl
@[simp] theorem advanceTap_tclkLatch (s : State) : (advanceTap s).tclkLatch = s.tclkLatch := rfl
@[simp] theorem advanceTap_tap (s : State) : (advanceTap s).tap = tapNext s.tap s.outTms := rfl
@[simp] theorem advanceTap_result (s : State) : (advanceTap s).result = s.result := rfl
@[simp] theorem advanceTap_err (s : State) : (advanceTap s).err = s.err := rfl
@[simp] theorem advanceTap_busy (s : State) : (advanceTap s).busy = s.busy := rfl
@[simp] theorem advanceTap_so (s : State) : (advanceTap s).so = s.so := rfl
@[simp] theorem advanceTap_si (s : State) : (advanceTap s).si = s.si := rfl
@[simp] theorem advanceTap_cnt (s : State) : (advanceTap s).cnt = s.cnt := rfl
@[simp] theorem advanceTap_micro (s : State) : (advanceTap s).micro = s.micro := rfl
@[simp] theorem advanceTap_hostQueue (s : State) : (advanceTap s).hostQueue = s.hostQueue := rfl
@[simp] theorem advanceTap_hostReads (s : State) : (advanceTap s).hostReads = s.hostReads := rfl
@[simp] theorem advanceTap_events (s : State) : (advanceTap s).events = s.events := rfl
@[simp] theorem advanceTap_tdoSource (s : State) : (advanceTap s).tdoSource = s.tdoSource := rfl
@[simp] theorem advanceTap_draws (s : State) : (advanceTap s).draws = s.draws := rfl

/-! `setErr` -/

@[simp] theorem setErr_outTms (s : State) : (setErr s).outTms = s.outTms := rfl
@[simp] theorem setErr_outTdi (s : State) : (setErr s).outTdi = s.outTdi := rfl
@[simp] theorem setErr_outTck (s : State) : (setErr s).outTck = s.outTck := rfl
@[simp] theorem setErr_outRst (s : State) : (setErr s).outRst = s.outRst := rfl
@[simp] theorem setErr_outTst (s : State) : (setErr s).outTst = s.outTst := rfl
@[simp] theorem setErr_tclkLatch (s : State) : (setErr s).tclkLatch = s.tclkLatch := rfl
@[simp] theorem setErr_tap (s : State) : (setErr s).tap = s.tap := rfl
@[simp] theorem setErr_result (s : State) : (setErr s).result = s.result := rfl
@[simp] theorem setErr_err (s : State) : (setErr s).err = true := rfl
@[simp] theorem setErr_busy (s : State) : (setErr s).busy = s.busy := rfl
@[simp] theorem setErr_so (s : State) : (setErr s).so = s.so := rfl
@[simp] theorem setErr_si (s : State) : (setErr s).si = s.si := rfl
@[simp] theorem setErr_cnt (s : State) : (setErr s).cnt = s.cnt := rfl
@[simp] theorem setErr_micro (s : State) : (setErr s).micro = s.micro := rfl
@[simp] theorem setErr_hostQueue (s : State) : (setErr s).hostQueue = s.hostQueue := rfl
@[simp] theorem setErr_hostReads (s : State) : (setErr s).hostReads = s.hostReads := rfl
@[simp] theorem setErr_events (s : State) : (setErr s).events = s.events := rfl
@[simp] theorem setErr_tdoSource (s : State) : (setErr s).tdoSource = s.tdoSource := rfl
@[simp] theorem setErr_draws (s : State) : (setErr s).draws = s.draws := rfl

/-! `accept` -/

@[simp] theorem accept_outTms (ms : List MicroStep) (s : State) : (accept ms s).outTms = s.outTms := rfl
@[simp] theorem accept_outTdi (ms : List MicroStep) (s : State) : (accept ms s).outTdi = s.outTdi := rfl
@[simp] theorem accept_outTck (ms : List MicroStep) (s : State) : (accept ms s).outTck = s.outTck := rfl
@[simp] theorem accept_outRst (ms : List MicroStep) (s : State) : (accept ms s).outRst = s.outRst := rfl
@[simp] theorem accept_outTst (ms : List MicroStep) (s : State) : (accept ms s).outTst = s.outTst := rfl
@[simp] theorem accept_tclkLatch (ms : List MicroStep) (s : State) : (accept ms s).tclkLatch = s.tclkLatch := rfl
@[simp] theorem accept_tap (ms : List MicroStep) (s : State) : (accept ms s).tap = s.tap := rfl
@[simp] theorem accept_result (ms : List MicroStep) (s : State) : (accept ms s).result = s.result := rfl
@[simp] theorem accept_err (ms : List MicroStep) (s : State) : (accept ms s).err = s.err := rfl
@[simp] theorem accept_busy (ms : List MicroStep) (s : State) : (accept ms s).busy = true := rfl
@[simp] theorem accept_so (ms : List MicroStep) (s : State) : (accept ms s).so = s.so := rfl
@[simp] theorem accept_si (ms : List MicroStep) (s : State) : (accept ms s).si = s.si := rfl
@[simp] theorem accept_cnt (ms : List MicroStep) (s : State) : (accept ms s).cnt = s.cnt := rfl
@[simp] theorem accept_micro (ms : List MicroStep) (s : State) : (accept ms s).micro = ms := rfl
@[simp] theorem accept_hostQueue (ms : List MicroStep) (s : State) : (accept ms s).hostQueue = s.hostQueue := rfl
@[simp] theorem accept_hostReads (ms : List MicroStep) (s : State) : (accept ms s).hostReads = s.hostReads := rfl
@[simp] theorem accept_events (ms : List MicroStep) (s : State) : (accept ms s).events = s.events := rfl
@[simp] theorem accept_tdoSource (ms : List MicroStep) (s : State) : (accept ms s).tdoSource = s.tdoSource := rfl
@[simp] theorem accept_draws (ms : List MicroStep) (s : State) : (accept ms s).draws = s.draws := rfl

/-! `setLeft` -/

@[simp] theorem setLeft_outTms (ms : List MicroStep) (s : State) : (setLeft ms s).outTms = s.outTms := rfl
@[simp] theorem setLeft_outTdi (ms : List MicroStep) (s : State) : (setLeft ms s).outTdi = s.outTdi := rfl
@[simp] theorem setLeft_outTck (ms : List MicroStep) (s : State) : (setLeft ms s).outTck = s.outTck := rfl
@[simp] theorem setLeft_outRst (ms : List MicroStep) (s : State) : (setLeft ms s).outRst = s.outRst := rfl
@[simp] theorem setLeft_outTst (ms : List MicroStep) (s : State) : (setLeft ms s).outTst = s.outTst := rfl
@[simp] theorem setLeft_tclkLatch (ms : List MicroStep) (s : State) : (setLeft ms s).tclkLatch = s.tclkLatch := rfl
@[simp] theorem setLeft_tap (ms : List MicroStep) (s : State) : (setLeft ms s).tap = s.tap := rfl
@[simp] theorem setLeft_result (ms : List MicroStep) (s : State) : (setLeft ms s).result = s.result := rfl
@[simp] theorem setLeft_err (ms : List MicroStep) (s : State) : (setLeft ms s).err = s.err := rfl
@[simp] theorem setLeft_busy (ms : List MicroStep) (s : State) : (setLeft ms s).busy = !ms.isEmpty := rfl
@[simp] theorem setLeft_so (ms : List MicroStep) (s : State) : (setLeft ms s).so = s.so := rfl
@[simp] theorem setLeft_si (ms : List MicroStep) (s : State) : (setLeft ms s).si = s.si := rfl
@[simp] theorem setLeft_cnt (ms : List MicroStep) (s : State) : (setLeft ms s).cnt = s.cnt := rfl
@[simp] theorem setLeft_micro (ms : List MicroStep) (s : State) : (setLeft ms s).micro = ms := rfl
@[simp] theorem setLeft_hostQueue (ms : List MicroStep) (s : State) : (setLeft ms s).hostQueue = s.hostQueue := rfl
@[simp] theorem setLeft_hostReads (ms : List MicroStep) (s : State) : (setLeft ms s).hostReads = s.hostReads := rfl
@[simp] theorem setLeft_events (ms : List MicroStep) (s : State) : (setLeft ms s).events = s.events := rfl
@[simp] theorem setLeft_tdoSource (ms : List MicroStep) (s : State) : (setLeft ms s).tdoSource = s.tdoSource := rfl
@[simp] theorem setLeft_draws (ms : List MicroStep) (s : State) : (setLeft ms s).draws = s.draws := rfl

/-! `saveTclk` -/

@[simp] theorem saveTclk_outTms (s : State) : (saveTclk s).outTms = s.outTms := rfl
@[simp] theorem saveTclk_outTdi (s : State) : (saveTclk s).outTdi = s.outTdi := rfl
@[simp] theorem saveTclk_outTck (s : State) : (saveTclk s).outTck = s.outTck := rfl
@[simp] theorem saveTclk_outRst (s : State) : (saveTclk s).outRst = s.outRst := rfl
@[simp] theorem saveTclk_outTst (s : State) : (saveTclk s).outTst = s.outTst := rfl
@[simp] theorem saveTclk_tclkLatch (s : State) : (saveTclk s).tclkLatch = s.outTdi := rfl
@[simp] theorem saveTclk_tap (s : State) : (saveTclk s).tap = s.tap := rfl
@[simp] theorem saveTclk_result (s : State) : (saveTclk s).result = s.result := rfl
@[simp] theorem saveTclk_err (s : State) : (saveTclk s).err = s.err := rfl
@[simp] theorem saveTclk_busy (s : State) : (saveTclk s).busy = s.busy := rfl
@[simp] theorem saveTclk_so (s : State) : (saveTclk s).so = s.so := rfl
@[simp] theorem saveTclk_si (s : State) : (saveTclk s).si = s.si := rfl
@[simp] theorem saveTclk_cnt (s : State) : (saveTclk s).cnt = s.cnt := rfl
@[simp] theorem saveTclk_micro (s : State) : (saveTclk s).micro = s.micro := rfl
@[simp] theorem saveTclk_hostQueue (s : State) : (saveTclk s).hostQueue = s.hostQueue := rfl
@[simp] theorem saveTclk_hostReads (s : State) : (saveTclk s).hostReads = s.hostReads := rfl
@[simp] theorem saveTclk_events (s : State) : (saveTclk s).events = s.events := rfl
@[simp] theorem saveTclk_tdoSource (s : State) : (saveTclk s).tdoSource = s.tdoSource := rfl
@[simp] theorem saveTclk_draws (s : State) : (saveTclk s).draws = s.draws := rfl

/-! `loadShift` -/

@[simp] theorem loadShift_outTms (f : ShiftFormat) (d : Half) (s : State) : (loadShift f d s).outTms = s.outTms := rfl
@[simp] theorem loadShift_outTdi (f : ShiftFormat) (d : Half) (s : State) : (loadShift f d s).outTdi = s.outTdi := rfl
@[simp] theorem loadShift_outTck (f : ShiftFormat) (d : Half) (s : State) : (loadShift f d s).outTck = s.outTck := rfl
@[simp] theorem loadShift_outRst (f : ShiftFormat) (d : Half) (s : State) : (loadShift f d s).outRst = s.outRst := rfl
@[simp] theorem loadShift_outTst (f : ShiftFormat) (d : Half) (s : State) : (loadShift f d s).outTst = s.outTst := rfl
@[simp] theorem loadShift_tclkLatch (f : ShiftFormat) (d : Half) (s : State) : (loadShift f d s).tclkLatch = s.tclkLatch := rfl
@[simp] theorem loadShift_tap (f : ShiftFormat) (d : Half) (s : State) : (loadShift f d s).tap = s.tap := rfl
@[simp] theorem loadShift_result (f : ShiftFormat) (d : Half) (s : State) : (loadShift f d s).result = s.result := rfl
@[simp] theorem loadShift_err (f : ShiftFormat) (d : Half) (s : State) : (loadShift f d s).err = s.err := rfl
@[simp] theorem loadShift_busy (f : ShiftFormat) (d : Half) (s : State) : (loadShift f d s).busy = s.busy := rfl
@[simp] theorem loadShift_so (f : ShiftFormat) (d : Half) (s : State) : (loadShift f d s).so = d := rfl
@[simp] theorem loadShift_si (f : ShiftFormat) (d : Half) (s : State) : (loadShift f d s).si = 0#16 := rfl
@[simp] theorem loadShift_cnt (f : ShiftFormat) (d : Half) (s : State) : (loadShift f d s).cnt = BitVec.ofNat 5 (formatBits f) := rfl
@[simp] theorem loadShift_micro (f : ShiftFormat) (d : Half) (s : State) : (loadShift f d s).micro = s.micro := rfl
@[simp] theorem loadShift_hostQueue (f : ShiftFormat) (d : Half) (s : State) : (loadShift f d s).hostQueue = s.hostQueue := rfl
@[simp] theorem loadShift_hostReads (f : ShiftFormat) (d : Half) (s : State) : (loadShift f d s).hostReads = s.hostReads := rfl
@[simp] theorem loadShift_events (f : ShiftFormat) (d : Half) (s : State) : (loadShift f d s).events = s.events := rfl
@[simp] theorem loadShift_tdoSource (f : ShiftFormat) (d : Half) (s : State) : (loadShift f d s).tdoSource = s.tdoSource := rfl
@[simp] theorem loadShift_draws (f : ShiftFormat) (d : Half) (s : State) : (loadShift f d s).draws = s.draws := rfl

/-! `countBit` -/

@[simp] theorem countBit_outTms (s : State) : (countBit s).outTms = s.outTms := rfl
@[simp] theorem countBit_outTdi (s : State) : (countBit s).outTdi = s.outTdi := rfl
@[simp] theorem countBit_outTck (s : State) : (countBit s).outTck = s.outTck := rfl
@[simp] theorem countBit_outRst (s : State) : (countBit s).outRst = s.outRst := rfl
@[simp] theorem countBit_outTst (s : State) : (countBit s).outTst = s.outTst := rfl
@[simp] theorem countBit_tclkLatch (s : State) : (countBit s).tclkLatch = s.tclkLatch := rfl
@[simp] theorem countBit_tap (s : State) : (countBit s).tap = s.tap := rfl
@[simp] theorem countBit_result (s : State) : (countBit s).result = s.result := rfl
@[simp] theorem countBit_err (s : State) : (countBit s).err = s.err := rfl
@[simp] theorem countBit_busy (s : State) : (countBit s).busy = s.busy := rfl
@[simp] theorem countBit_so (s : State) : (countBit s).so = s.so := rfl
@[simp] theorem countBit_si (s : State) : (countBit s).si = s.si := rfl
@[simp] theorem countBit_cnt (s : State) : (countBit s).cnt = s.cnt - 1#5 := rfl
@[simp] theorem countBit_micro (s : State) : (countBit s).micro = s.micro := rfl
@[simp] theorem countBit_hostQueue (s : State) : (countBit s).hostQueue = s.hostQueue := rfl
@[simp] theorem countBit_hostReads (s : State) : (countBit s).hostReads = s.hostReads := rfl
@[simp] theorem countBit_events (s : State) : (countBit s).events = s.events := rfl
@[simp] theorem countBit_tdoSource (s : State) : (countBit s).tdoSource = s.tdoSource := rfl
@[simp] theorem countBit_draws (s : State) : (countBit s).draws = s.draws := rfl

/-! `storeResult` -/

@[simp] theorem storeResult_outTms (s : State) : (storeResult s).outTms = s.outTms := rfl
@[simp] theorem storeResult_outTdi (s : State) : (storeResult s).outTdi = s.outTdi := rfl
@[simp] theorem storeResult_outTck (s : State) : (storeResult s).outTck = s.outTck := rfl
@[simp] theorem storeResult_outRst (s : State) : (storeResult s).outRst = s.outRst := rfl
@[simp] theorem storeResult_outTst (s : State) : (storeResult s).outTst = s.outTst := rfl
@[simp] theorem storeResult_tclkLatch (s : State) : (storeResult s).tclkLatch = s.tclkLatch := rfl
@[simp] theorem storeResult_tap (s : State) : (storeResult s).tap = s.tap := rfl
@[simp] theorem storeResult_result (s : State) : (storeResult s).result = s.si := rfl
@[simp] theorem storeResult_err (s : State) : (storeResult s).err = s.err := rfl
@[simp] theorem storeResult_busy (s : State) : (storeResult s).busy = s.busy := rfl
@[simp] theorem storeResult_so (s : State) : (storeResult s).so = s.so := rfl
@[simp] theorem storeResult_si (s : State) : (storeResult s).si = s.si := rfl
@[simp] theorem storeResult_cnt (s : State) : (storeResult s).cnt = s.cnt := rfl
@[simp] theorem storeResult_micro (s : State) : (storeResult s).micro = s.micro := rfl
@[simp] theorem storeResult_hostQueue (s : State) : (storeResult s).hostQueue = s.hostQueue := rfl
@[simp] theorem storeResult_hostReads (s : State) : (storeResult s).hostReads = s.hostReads := rfl
@[simp] theorem storeResult_events (s : State) : (storeResult s).events = s.events := rfl
@[simp] theorem storeResult_tdoSource (s : State) : (storeResult s).tdoSource = s.tdoSource := rfl
@[simp] theorem storeResult_draws (s : State) : (storeResult s).draws = s.draws := rfl

/-! `drive` on TMS -/

@[simp] theorem drive_tms (v : Bool) (s : State) : drive .tms v s = { s with outTms := v } := rfl
@[simp] theorem level_tms (s : State) : level s .tms = s.outTms := rfl

/-! `drive` on TDI -/

@[simp] theorem drive_tdi (v : Bool) (s : State) : drive .tdi v s = { s with outTdi := v } := rfl
@[simp] theorem level_tdi (s : State) : level s .tdi = s.outTdi := rfl

/-! `drive` on TCK -/

@[simp] theorem drive_tck (v : Bool) (s : State) : drive .tck v s = { s with outTck := v } := rfl
@[simp] theorem level_tck (s : State) : level s .tck = s.outTck := rfl

/-! `drive` on RST -/

@[simp] theorem drive_rst (v : Bool) (s : State) : drive .rst v s = { s with outRst := v } := rfl
@[simp] theorem level_rst (s : State) : level s .rst = s.outRst := rfl

/-! `drive` on TST -/

@[simp] theorem drive_tst (v : Bool) (s : State) : drive .tst v s = { s with outTst := v } := rfl
@[simp] theorem level_tst (s : State) : level s .tst = s.outTst := rfl

/-! `drive` on any line: what it leaves alone -/

@[simp] theorem drive_tclkLatch (l : Line) (v : Bool) (s : State) : (drive l v s).tclkLatch = s.tclkLatch := by
  cases l <;> rfl
@[simp] theorem drive_tap (l : Line) (v : Bool) (s : State) : (drive l v s).tap = s.tap := by
  cases l <;> rfl
@[simp] theorem drive_result (l : Line) (v : Bool) (s : State) : (drive l v s).result = s.result := by
  cases l <;> rfl
@[simp] theorem drive_err (l : Line) (v : Bool) (s : State) : (drive l v s).err = s.err := by
  cases l <;> rfl
@[simp] theorem drive_busy (l : Line) (v : Bool) (s : State) : (drive l v s).busy = s.busy := by
  cases l <;> rfl
@[simp] theorem drive_so (l : Line) (v : Bool) (s : State) : (drive l v s).so = s.so := by
  cases l <;> rfl
@[simp] theorem drive_si (l : Line) (v : Bool) (s : State) : (drive l v s).si = s.si := by
  cases l <;> rfl
@[simp] theorem drive_cnt (l : Line) (v : Bool) (s : State) : (drive l v s).cnt = s.cnt := by
  cases l <;> rfl
@[simp] theorem drive_micro (l : Line) (v : Bool) (s : State) : (drive l v s).micro = s.micro := by
  cases l <;> rfl
@[simp] theorem drive_hostQueue (l : Line) (v : Bool) (s : State) : (drive l v s).hostQueue = s.hostQueue := by
  cases l <;> rfl
@[simp] theorem drive_hostReads (l : Line) (v : Bool) (s : State) : (drive l v s).hostReads = s.hostReads := by
  cases l <;> rfl
@[simp] theorem drive_events (l : Line) (v : Bool) (s : State) : (drive l v s).events = s.events := by
  cases l <;> rfl
@[simp] theorem drive_tdoSource (l : Line) (v : Bool) (s : State) : (drive l v s).tdoSource = s.tdoSource := by
  cases l <;> rfl
@[simp] theorem drive_draws (l : Line) (v : Bool) (s : State) : (drive l v s).draws = s.draws := by
  cases l <;> rfl

theorem level_drive (l k : Line) (v : Bool) (s : State) :
    level (drive l v s) k = if k = l then v else level s k := by
  cases l <;> cases k <;> rfl

@[simp] theorem level_emit (e : PinEvent) (s : State) (k : Line) : level (emit e s) k = level s k := by
  cases k <;> rfl

@[simp] theorem level_advanceTap (s : State) (k : Line) : level (advanceTap s) k = level s k := by
  cases k <;> rfl

end Sys2Proof.Machine
end

