-- ==== Sys2Proof/Laws/Ops.lean ====
section
/-! SUPPORT. What each shared operation can do, said once (spec/40_line_primitives.md R90 to R92, R105, spec/41_shift.md R120 to
R122): proofs about commands cite these instead of unfolding the operations. -/

namespace Sys2Proof.Machine

/-- `SetLine` on a line other than TCK: the event and the latch. -/
theorem setLine_of_ne_tck {l : Line} (h : l ≠ .tck) (s : State) :
    setLine l s = drive l true (emit (.set l) s) := by
  simp [setLine, h]

@[simp] theorem setLine_tms (s : State) :
    setLine .tms s = { s with outTms := true, events := s.events ++ [.set .tms] } := rfl

@[simp] theorem setLine_tdi (s : State) :
    setLine .tdi s = { s with outTdi := true, events := s.events ++ [.set .tdi] } := rfl

@[simp] theorem setLine_rst (s : State) :
    setLine .rst s = { s with outRst := true, events := s.events ++ [.set .rst] } := rfl

@[simp] theorem setLine_tst (s : State) :
    setLine .tst s = { s with outTst := true, events := s.events ++ [.set .tst] } := rfl

/-- `SetLine(TCK)`: the TAP copy moves exactly when TCK was low (R28). -/
@[simp] theorem setLine_tck (s : State) :
    setLine .tck s =
      { s with
        outTck := true
        tap := if s.outTck then s.tap else tapNext s.tap s.outTms
        events := s.events ++ [.set .tck] } := by
  cases h : s.outTck <;> simp [setLine, level, drive, emit, advanceTap, h]

@[simp] theorem clrLine_tms (s : State) :
    clrLine .tms s = { s with outTms := false, events := s.events ++ [.clr .tms] } := rfl

@[simp] theorem clrLine_tdi (s : State) :
    clrLine .tdi s = { s with outTdi := false, events := s.events ++ [.clr .tdi] } := rfl

@[simp] theorem clrLine_tck (s : State) :
    clrLine .tck s = { s with outTck := false, events := s.events ++ [.clr .tck] } := rfl

@[simp] theorem clrLine_rst (s : State) :
    clrLine .rst s = { s with outRst := false, events := s.events ++ [.clr .rst] } := rfl

@[simp] theorem clrLine_tst (s : State) :
    clrLine .tst s = { s with outTst := false, events := s.events ++ [.clr .tst] } := rfl

/-- A write of TDI by a level (R121, R122 step 3a). -/
@[simp] theorem writeLine_tdi (v : Bool) (s : State) :
    writeLine .tdi v s = { s with outTdi := v, events := s.events ++ [lineEvent .tdi v] } := by
  cases v <;> rfl

/-- A sample takes the first answer to the present TDI level and moves the environment on (R105, R128). -/
theorem sample_eq (s : State) :
    sample s =
      (tdoLevel s,
        { s with
          events := s.events ++ [.rd (tdoLevel s)]
          tdoSource := (takeAnswers [s.outTdi] s.tdoSource s.draws).2.1
          draws := (takeAnswers [s.outTdi] s.tdoSource s.draws).2.2 }) := by
  cases h : s.tdoSource with
  | loopback => simp [sample, nextAnswer, takeAnswers, emit, h]
  | target vs => cases vs <;> simp [sample, nextAnswer, takeAnswers, emit, h]

theorem tdoLevel_eq (s : State) : (takeAnswers [s.outTdi] s.tdoSource s.draws).1 = [tdoLevel s] := by
  cases h : s.tdoSource with
  | loopback => simp [tdoLevel, takeAnswers, h]
  | target vs => cases vs <;> simp [tdoLevel, takeAnswers, h]

/-- The answers to some samples come one after the other. -/
theorem takeAnswers_cons (b : Bool) (bs : List Bool) (src : TdoSource) (n : Nat) :
    takeAnswers (b :: bs) src n =
      ((takeAnswers [b] src n).1 ++ (takeAnswers bs (takeAnswers [b] src n).2.1 (takeAnswers [b] src n).2.2).1,
        (takeAnswers bs (takeAnswers [b] src n).2.1 (takeAnswers [b] src n).2.2).2) := by
  cases src with
  | loopback => simp [takeAnswers]
  | target vs => cases vs <;> simp [takeAnswers]

theorem takeAnswers_length (bs : List Bool) (src : TdoSource) (n : Nat) :
    (takeAnswers bs src n).1.length = bs.length := by
  induction bs generalizing src n with
  | nil => rfl
  | cons b bs ih =>
    cases src with
    | loopback => simp [takeAnswers, ih]
    | target vs => cases vs <;> simp [takeAnswers, ih]

/-- In the loopback rig the answers are the levels of TDI (R128). -/
theorem takeAnswers_loopback (bs : List Bool) (n : Nat) : takeAnswers bs .loopback n = (bs, .loopback, n) := by
  induction bs with
  | nil => rfl
  | cons b bs ih => simp [takeAnswers, ih]

/-- A target whose answers are listed gives them in order. -/
theorem takeAnswers_target (bs vs rest : List Bool) (n : Nat) (h : vs.length = bs.length) :
    takeAnswers bs (.target (vs ++ rest)) n = (vs, .target rest, n) := by
  induction bs generalizing vs with
  | nil => simp_all [takeAnswers]
  | cons b bs ih =>
    cases vs with
    | nil => simp at h
    | cons v vs => simp [takeAnswers, ih vs (by simpa using h)]

@[simp] theorem dataBits_length (n : Nat) (d : Half) : (dataBits n d).length = n := by
  induction n with
  | zero => rfl
  | succ n ih => simp [dataBits, ih]

/-! What `perform` never touches: the flags, the micro-step position, the host's side. -/

@[simp] theorem setLine_err (l : Line) (s : State) : (setLine l s).err = s.err := by cases l <;> simp
@[simp] theorem setLine_busy (l : Line) (s : State) : (setLine l s).busy = s.busy := by cases l <;> simp
@[simp] theorem setLine_micro (l : Line) (s : State) : (setLine l s).micro = s.micro := by cases l <;> simp
@[simp] theorem setLine_hostQueue (l : Line) (s : State) : (setLine l s).hostQueue = s.hostQueue := by cases l <;> simp
@[simp] theorem setLine_hostReads (l : Line) (s : State) : (setLine l s).hostReads = s.hostReads := by cases l <;> simp
@[simp] theorem setLine_cnt (l : Line) (s : State) : (setLine l s).cnt = s.cnt := by cases l <;> simp
@[simp] theorem clrLine_err (l : Line) (s : State) : (clrLine l s).err = s.err := by cases l <;> simp
@[simp] theorem clrLine_busy (l : Line) (s : State) : (clrLine l s).busy = s.busy := by cases l <;> simp
@[simp] theorem clrLine_micro (l : Line) (s : State) : (clrLine l s).micro = s.micro := by cases l <;> simp
@[simp] theorem clrLine_hostQueue (l : Line) (s : State) : (clrLine l s).hostQueue = s.hostQueue := by cases l <;> simp
@[simp] theorem clrLine_hostReads (l : Line) (s : State) : (clrLine l s).hostReads = s.hostReads := by cases l <;> simp
@[simp] theorem clrLine_cnt (l : Line) (s : State) : (clrLine l s).cnt = s.cnt := by cases l <;> simp

@[simp] theorem perform_err (m : MicroStep) (s : State) : (perform m s).err = s.err := by
  cases m <;> simp [perform, driveBit, restoreTclk, sampleBit, sampleToResult, sample_eq]
@[simp] theorem perform_busy (m : MicroStep) (s : State) : (perform m s).busy = s.busy := by
  cases m <;> simp [perform, driveBit, restoreTclk, sampleBit, sampleToResult, sample_eq]
@[simp] theorem perform_micro (m : MicroStep) (s : State) : (perform m s).micro = s.micro := by
  cases m <;> simp [perform, driveBit, restoreTclk, sampleBit, sampleToResult, sample_eq]
@[simp] theorem perform_hostQueue (m : MicroStep) (s : State) : (perform m s).hostQueue = s.hostQueue := by
  cases m <;> simp [perform, driveBit, restoreTclk, sampleBit, sampleToResult, sample_eq]
@[simp] theorem perform_hostReads (m : MicroStep) (s : State) : (perform m s).hostReads = s.hostReads := by
  cases m <;> simp [perform, driveBit, restoreTclk, sampleBit, sampleToResult, sample_eq]

/-- `cnt` moves only when a shift is loaded (R122 step 2) and when a bit is counted (step 3e). -/
theorem perform_cnt (m : MicroStep) (s : State) :
    (perform m s).cnt =
      match m with
      | .loadShift f _ => BitVec.ofNat 5 (formatBits f)
      | .countBit => s.cnt - 1#5
      | _ => s.cnt := by
  cases m <;> simp [perform, driveBit, restoreTclk, sampleBit, sampleToResult, sample_eq]

end Sys2Proof.Machine
end

