-- ==== Sys2Proof/Laws/PerInstr.lean ====
section
/-! SUPPORT. Statements per command as syntax: the word of a well-formed command matches its own row of the opcode table and no
other (spec/30_encoding.md R72). -/

namespace Sys2Proof.Laws.OneRow

/-- The rows that match the command's word are those of its own name. -/
def Statement (i : Instr) : Prop :=
  i.WellFormed → ∀ r ∈ opcodeRows, r.matchesWord (encode i) = true ↔ r.mnemonic = mnemonicOf i

theorem clrTms : Statement .clrTms := fun _ => by decide
theorem setTms : Statement .setTms := fun _ => by decide
theorem clrTdi : Statement .clrTdi := fun _ => by decide
theorem setTdi : Statement .setTdi := fun _ => by decide
theorem clrTck : Statement .clrTck := fun _ => by decide
theorem setTck : Statement .setTck := fun _ => by decide
theorem clrTclk : Statement .clrTclk := fun _ => by decide
theorem setTclk : Statement .setTclk := fun _ => by decide
theorem clrRst : Statement .clrRst := fun _ => by decide
theorem setRst : Statement .setRst := fun _ => by decide
theorem clrTst : Statement .clrTst := fun _ => by decide
theorem setTst : Statement .setTst := fun _ => by decide
theorem scanTdo : Statement .scanTdo := fun _ => by decide
theorem resetTap : Statement .resetTap := fun _ => by decide

theorem delayUs (n : Half) : Statement (.delayUs n) := fun _ => by
  have e := encode_fields (.delayUs n)
  have b := (encode_bytes (.delayUs n)).1
  simp only [opcodeRows, lineRows, otherRows, List.cons_append, List.nil_append, List.forall_mem_cons,
    OpcodeRow.matchesWord, beq_iff_eq, matches_all_iff, matches_high16_iff, matches_high24_iff, e, b, opcodeOf, formatOf,
    operandOf, mnemonicOf]
  simp [opField, fmtField, immField]

theorem delayMs (n : Half) : Statement (.delayMs n) := fun _ => by
  have e := encode_fields (.delayMs n)
  have b := (encode_bytes (.delayMs n)).1
  simp only [opcodeRows, lineRows, otherRows, List.cons_append, List.nil_append, List.forall_mem_cons,
    OpcodeRow.matchesWord, beq_iff_eq, matches_all_iff, matches_high16_iff, matches_high24_iff, e, b, opcodeOf, formatOf,
    operandOf, mnemonicOf]
  simp [opField, fmtField, immField]

theorem shift16 (d : Half) : Statement (.shift16 d) := fun _ => by
  have e := encode_fields (.shift16 d)
  have b := (encode_bytes (.shift16 d)).1
  simp only [opcodeRows, lineRows, otherRows, List.cons_append, List.nil_append, List.forall_mem_cons,
    OpcodeRow.matchesWord, beq_iff_eq, matches_all_iff, matches_high16_iff, matches_high24_iff, e, b, opcodeOf, formatOf,
    operandOf, mnemonicOf]
  simp [opField, fmtField, immField]

theorem drShift16 (d : Half) : Statement (.drShift16 d) := fun _ => by
  have e := encode_fields (.drShift16 d)
  have b := (encode_bytes (.drShift16 d)).1
  simp only [opcodeRows, lineRows, otherRows, List.cons_append, List.nil_append, List.forall_mem_cons,
    OpcodeRow.matchesWord, beq_iff_eq, matches_all_iff, matches_high16_iff, matches_high24_iff, e, b, opcodeOf, formatOf,
    operandOf, mnemonicOf]
  simp [opField, fmtField, immField]

theorem shift8 (d : Half) : Statement (.shift8 d) := fun h => by
  have e := encode_fields (.shift8 d)
  have b := (encode_bytes (.shift8 d)).1
  simp only [Instr.WellFormed, Instr.wellFormed, beq_iff_eq] at h
  simp only [opcodeRows, lineRows, otherRows, List.cons_append, List.nil_append, List.forall_mem_cons,
    OpcodeRow.matchesWord, beq_iff_eq, matches_all_iff, matches_high16_iff, matches_high24_iff, e, b, opcodeOf, formatOf,
    operandOf, mnemonicOf, h]
  simp [opField, fmtField, immField]

theorem irShift (i : Half) : Statement (.irShift i) := fun h => by
  have e := encode_fields (.irShift i)
  have b := (encode_bytes (.irShift i)).1
  simp only [Instr.WellFormed, Instr.wellFormed, beq_iff_eq] at h
  simp only [opcodeRows, lineRows, otherRows, List.cons_append, List.nil_append, List.forall_mem_cons,
    OpcodeRow.matchesWord, beq_iff_eq, matches_all_iff, matches_high16_iff, matches_high24_iff, e, b, opcodeOf, formatOf,
    operandOf, mnemonicOf, h]
  simp [opField, fmtField, immField]

end Sys2Proof.Laws.OneRow
end

