-- ==== Sys2Proof/Laws/Run.lean ====
section
/-! SUPPORT. Running micro-steps (spec/00_scope.md R10, spec/10_state.md R32 to R34): order, frames, whole commands, and what the
shift body leaves (spec/41_shift.md R122). -/

namespace Sys2Proof.Machine

@[simp] theorem performAll_nil (s : State) : performAll [] s = s := rfl

@[simp] theorem performAll_cons (m : MicroStep) (ms : List MicroStep) (s : State) :
    performAll (m :: ms) s = performAll ms (perform m s) := rfl

theorem performAll_append (xs ys : List MicroStep) (s : State) :
    performAll (xs ++ ys) s = performAll ys (performAll xs s) := by
  induction xs generalizing s with
  | nil => rfl
  | cons m ms ih => exact ih (perform m s)

@[simp] theorem performAll_err (ms : List MicroStep) (s : State) : (performAll ms s).err = s.err := by
  induction ms generalizing s with
  | nil => rfl
  | cons m ms ih => simp [ih]

@[simp] theorem performAll_busy (ms : List MicroStep) (s : State) : (performAll ms s).busy = s.busy := by
  induction ms generalizing s with
  | nil => rfl
  | cons m ms ih => simp [ih]

@[simp] theorem performAll_micro (ms : List MicroStep) (s : State) : (performAll ms s).micro = s.micro := by
  induction ms generalizing s with
  | nil => rfl
  | cons m ms ih => simp [ih]

@[simp] theorem performAll_hostQueue (ms : List MicroStep) (s : State) : (performAll ms s).hostQueue = s.hostQueue := by
  induction ms generalizing s with
  | nil => rfl
  | cons m ms ih => simp [ih]

@[simp] theorem performAll_hostReads (ms : List MicroStep) (s : State) : (performAll ms s).hostReads = s.hostReads := by
  induction ms generalizing s with
  | nil => rfl
  | cons m ms ih => simp [ih]

/-- The flags and the micro-step position decide nothing inside a command: one micro-step commutes with setting them. -/
theorem perform_with_flags (m : MicroStep) (s : State) (e b : Bool) (ms : List MicroStep) :
    perform m { s with err := e, busy := b, micro := ms } = { perform m s with err := e, busy := b, micro := ms } := by
  cases m with
  | setLine l => cases l <;> simp [perform]
  | clrLine l => cases l <;> simp [perform]
  | scanTdo => simp [perform, sampleToResult, sample_eq, tdoLevel]
  | sampleBit => simp [perform, sampleBit, sample_eq, tdoLevel]
  | driveBit i => simp [perform, driveBit]
  | restoreTclk => simp [perform, restoreTclk]
  | delayUs _ | delayMs _ | saveTclk | loadShift _ _ | countBit | storeResult => rfl

theorem performAll_with_flags (ms : List MicroStep) (s : State) (e b : Bool) (left : List MicroStep) :
    performAll ms { s with err := e, busy := b, micro := left } =
      { performAll ms s with err := e, busy := b, micro := left } := by
  induction ms generalizing s with
  | nil => rfl
  | cons m ms ih => simp only [performAll_cons, perform_with_flags, ih]

/-- The host's moves to come decide nothing inside a command either. -/
theorem perform_with_hostQueue (m : MicroStep) (s : State) (q : List HostMove) :
    perform m { s with hostQueue := q } = { perform m s with hostQueue := q } := by
  cases m with
  | setLine l => cases l <;> simp [perform]
  | clrLine l => cases l <;> simp [perform]
  | scanTdo => simp [perform, sampleToResult, sample_eq, tdoLevel]
  | sampleBit => simp [perform, sampleBit, sample_eq, tdoLevel]
  | driveBit i => simp [perform, driveBit]
  | restoreTclk => simp [perform, restoreTclk]
  | delayUs _ | delayMs _ | saveTclk | loadShift _ _ | countBit | storeResult => rfl

theorem performAll_with_hostQueue (ms : List MicroStep) (s : State) (q : List HostMove) :
    performAll ms { s with hostQueue := q } = { performAll ms s with hostQueue := q } := by
  induction ms generalizing s with
  | nil => rfl
  | cons m ms ih => simp only [performAll_cons, perform_with_hostQueue, ih]

/-- A whole command is its micro-steps in order, and leaves the block idle (R34). -/
theorem runCommand_eq (ms : List MicroStep) (s : State) :
    runCommand ms s = { performAll ms s with busy := false, micro := [] } := by
  have h := performAll_with_flags ms s s.err true ms
  simp only [runCommand, finish, accept, setLeft, List.isEmpty_nil, Bool.not_true]
  rw [h]; simp

/-- Every meaning runs the micro-steps of its command. -/
theorem exec_eq (i : Instr) (s : State) : exec i s = .next (runCommand (commandSteps i) s) := by
  cases i <;> rfl

/-- Going on by `j` and then by `k` micro-steps is going on by `j + k`. -/
theorem advanceBy_advanceBy (j k : Nat) (s : State) : advanceBy k (advanceBy j s) = advanceBy (j + k) s := by
  have h := performAll_with_flags ((s.micro.drop j).take k) (performAll (s.micro.take j) s)
    s.err (!(s.micro.drop j).isEmpty) (s.micro.drop j)
  have e : (performAll (s.micro.take j) s).err = s.err := by simp
  simp only [advanceBy, setLeft] at *
  rw [← e] at h
  rw [h, List.take_add, performAll_append, List.drop_drop]
  simp

/-- A command finishes when it has gone on by all its micro-steps. -/
theorem finish_eq_advanceBy (s : State) : finish s = advanceBy s.micro.length s := by
  simp [finish, advanceBy]

/-- The block that has nothing to do stays as it is. -/
theorem finish_idle {s : State} (h : Idle s) : finish s = s := by
  obtain ⟨hb, hm⟩ := h
  cases s; simp_all [finish, setLeft]

theorem advanceBy_idle {s : State} (h : Idle s) (k : Nat) : advanceBy k s = s := by
  obtain ⟨hb, hm⟩ := h
  cases s; simp_all [advanceBy, setLeft]

theorem workOn_idle {s : State} (h : Idle s) : workOn s = s := by
  unfold workOn
  split
  · exact advanceBy_idle h _
  · exact finish_idle h

/-- What `workOn` can do: go on by some number of micro-steps. -/
theorem workOn_cases (s : State) : ∃ k, workOn s = advanceBy k s := by
  unfold workOn
  split
  · exact ⟨_, rfl⟩
  · exact ⟨_, finish_eq_advanceBy s⟩

/-- What starting a command can do: accept it and go on by some number of micro-steps. -/
theorem startCommand_cases (i : Instr) (s : State) :
    ∃ k, startCommand i s = .next (advanceBy k (accept (commandSteps i) s)) := by
  unfold startCommand
  split
  · exact ⟨_, rfl⟩
  · exact ⟨_, by rw [exec_eq, runCommand, finish_eq_advanceBy]⟩

/-- `Pulse()` is one low phase and one rising edge, whatever TCK was (R92). -/
theorem performAll_pulse (s : State) :
    performAll pulse s =
      { s with outTck := true, tap := tapNext s.tap s.outTms, events := s.events ++ pulseEvents } := by
  simp [pulse, perform, pulseEvents]

theorem tapWalk_append (q : Tap) (xs ys : List Bool) : tapWalk q (xs ++ ys) = tapWalk (tapWalk q xs) ys := by
  induction xs generalizing q with
  | nil => rfl
  | cons x xs ih => exact ih (tapNext q x)

/-- The TMS levels at the rising edges of data bits `n-1` down to 0, with TMS at `tms` before the last (R122). -/
def dataTms (tms : Bool) : Nat → List Bool
  | 0 => []
  | n + 1 => (if n = 0 then true else tms) :: dataTms tms n

theorem dataTms_succ (tms : Bool) (n : Nat) : dataTms tms (n + 1) = List.replicate n tms ++ [true] := by
  induction n with
  | zero => rfl
  | succ n ih =>
    rw [dataTms, ih, List.replicate_succ]
    simp

/-- The first answer is the level of TDO while TDI has the first level; the others follow it. -/
theorem takeAnswers_step (b : Bool) (bs : List Bool) (s : State) :
    takeAnswers (b :: bs) s.tdoSource s.draws =
      (tdoLevel { s with outTdi := b } ::
          (takeAnswers bs (takeAnswers [b] s.tdoSource s.draws).2.1 (takeAnswers [b] s.tdoSource s.draws).2.2).1,
        (takeAnswers bs (takeAnswers [b] s.tdoSource s.draws).2.1 (takeAnswers [b] s.tdoSource s.draws).2.2).2) := by
  have h := tdoLevel_eq { s with outTdi := b }
  have h' : (takeAnswers [b] s.tdoSource s.draws).1 = [tdoLevel { s with outTdi := b }] := h
  rw [takeAnswers_cons, h']
  rfl

/-- The events of one more data bit, when its read is the first of the list. -/
theorem dataEvents_succ (n : Nat) (d : Half) (r : Bool) (rds : List Bool) :
    dataEvents (n + 1) d (r :: rds) =
      [lineEvent .tdi (d.getLsbD n)] ++ (if n = 0 then [.set .tms] else []) ++ pulseEvents ++ [.rd r] ++
        dataEvents n d rds := rfl

/-- One bit of the shift body (R122 step 3, a to e). -/
theorem performAll_bitSteps (i : Nat) (s : State) :
    performAll (bitSteps i) s =
      { s with
        outTdi := s.so.getLsbD i
        outTms := if i = 0 then true else s.outTms
        outTck := true
        tap := tapNext s.tap (if i = 0 then true else s.outTms)
        si := shiftIn s.si (tdoLevel { s with outTdi := s.so.getLsbD i })
        cnt := s.cnt - 1#5
        events := s.events ++ ([lineEvent .tdi (s.so.getLsbD i)] ++ (if i = 0 then [.set .tms] else []) ++ pulseEvents ++
          [.rd (tdoLevel { s with outTdi := s.so.getLsbD i })])
        tdoSource := (takeAnswers [s.so.getLsbD i] s.tdoSource s.draws).2.1
        draws := (takeAnswers [s.so.getLsbD i] s.tdoSource s.draws).2.2 } := by
  by_cases h : i = 0 <;>
    simp [h, bitSteps, pulse, pulseEvents, perform, driveBit, sampleBit, countBit, sample_eq, tdoLevel]

/-- The shift body over data bits `n-1` down to 0 (R122 step 3). -/
theorem performAll_dataSteps (n : Nat) (s : State) :
    performAll (dataSteps (n + 1)) s =
      { s with
        outTdi := s.so.getLsbD 0
        outTms := true
        outTck := true
        tap := tapWalk s.tap (dataTms s.outTms (n + 1))
        si := (takeAnswers (dataBits (n + 1) s.so) s.tdoSource s.draws).1.foldl shiftIn s.si
        cnt := s.cnt - BitVec.ofNat 5 (n + 1)
        events := s.events ++
          dataEvents (n + 1) s.so (takeAnswers (dataBits (n + 1) s.so) s.tdoSource s.draws).1
        tdoSource := (takeAnswers (dataBits (n + 1) s.so) s.tdoSource s.draws).2.1
        draws := (takeAnswers (dataBits (n + 1) s.so) s.tdoSource s.draws).2.2 } := by
  induction n generalizing s with
  | zero =>
    have h := takeAnswers_step (s.so.getLsbD 0) [] s
    simp only [dataSteps, List.append_nil, performAll_bitSteps, dataBits, dataTms, tapWalk]
    rw [h, dataEvents_succ]
    simp [takeAnswers, dataEvents]
  | succ n ih =>
    have h := takeAnswers_step (s.so.getLsbD (n + 1)) (dataBits (n + 1) s.so) s
    have hc : s.cnt - 1#5 - BitVec.ofNat 5 (n + 1) = s.cnt - BitVec.ofNat 5 (n + 1 + 1) := by
      rw [BitVec.sub_sub, BitVec.add_comm, ← BitVec.ofNat_add]
    have hd : dataBits (n + 1 + 1) s.so = s.so.getLsbD (n + 1) :: dataBits (n + 1) s.so := rfl
    have ht : dataTms s.outTms (n + 1 + 1) = s.outTms :: dataTms s.outTms (n + 1) := rfl
    rw [dataSteps, performAll_append, ih, performAll_bitSteps, hd, h, dataEvents_succ, ht]
    simp [hc, tapWalk]

/-- What a whole `Shift(format, data)` leaves, from any state (R122, R126). -/
theorem performAll_shiftSteps (f : ShiftFormat) (d : Half) (s : State) :
    performAll (shiftSteps f d) s =
      { s with
        outTms := false
        outTck := true
        tclkLatch := s.outTdi
        tap := tapWalk s.tap (dataTms s.outTms (formatBits f) ++ [true, false])
        result := assemble (shiftAnswers f d s).1
        so := d
        si := assemble (shiftAnswers f d s).1
        cnt := 0#5
        events := s.events ++ shiftEvents f d s.outTdi (shiftAnswers f d s).1
        tdoSource := (shiftAnswers f d s).2.1
        draws := (shiftAnswers f d s).2.2 } := by
  cases f <;>
    simp [shiftSteps, formatBits, performAll_append, performAll_dataSteps, performAll_pulse, perform, restoreTclk,
      saveTclk, loadShift, storeResult, shiftAnswers, shiftEvents, assemble, tapWalk_append, tapWalk]

end Sys2Proof.Machine
end

