-- ==== Sys2Proof/Laws/Step.lean ====
section
/-! SUPPORT. What a step can do, said once (spec/10_state.md R34, spec/60_exceptions.md R161 to R164): the state the host's move
makes, and then some micro-steps of the running command. -/

namespace Sys2Proof.Machine

/-- The state a move of the host makes of `s`, before the block works on. -/
inductive Moved (s : State) : State → Prop where
  /-- No move is to come. -/
  | none (h : s.hostQueue = []) : Moved s s
  /-- A read of a host register (R35, R37). -/
  | read (e : Option Nat) (o : Int) (rest : List HostMove) (h : s.hostQueue = ⟨e, .read o 32⟩ :: rest) :
      Moved s { s with
        hostQueue := rest
        hostReads := s.hostReads ++ [readHostReg o { s with hostQueue := rest }] }
  /-- A write of `RESULT` or `STATUS`, ignored. -/
  | ignored (e : Option Nat) (o : Int) (v : Word) (rest : List HostMove) (ho : o ≠ 0)
      (h : s.hostQueue = ⟨e, .write o 32 v⟩ :: rest) : Moved s { s with hostQueue := rest }
  /-- A refused word (R161, R162). -/
  | refused (e : Option Nat) (v : Word) (rest : List HostMove) (h : s.hostQueue = ⟨e, .write 0 32 v⟩ :: rest)
      (why : s.busy = true ∨ ∃ c, decode v = .error c) : Moved s (refuseWord { s with hostQueue := rest })
  /-- An accepted command (R34). -/
  | accepted (e : Option Nat) (v : Word) (i : Instr) (rest : List HostMove)
      (h : s.hostQueue = ⟨e, .write 0 32 v⟩ :: rest) (hb : s.busy = false) (hd : decode v = .ok i) :
      Moved s (accept (commandSteps i) { s with hostQueue := rest })
  /-- The reset input (R180). -/
  | reset (e : Option Nat) (rest : List HostMove) (h : s.hostQueue = ⟨e, .reset⟩ :: rest) :
      Moved s (resetEvent { s with hostQueue := rest })

/-- A step that answers a next state makes the host's move and then some micro-steps of the running command. -/
theorem step_cases {s t : State} (h : step s = .next t) : ∃ u k, Moved s u ∧ t = advanceBy k u := by
  unfold step at h
  split at h
  · rename_i hq
    injection h with h
    exact ⟨s, _, .none hq, by rw [← h, finish_eq_advanceBy]⟩
  · rename_i mv rest hq
    obtain ⟨e, a⟩ := mv
    cases a with
    | reset =>
      injection h with h
      obtain ⟨k, hk⟩ := workOn_cases (resetEvent { s with hostQueue := rest })
      exact ⟨_, k, .reset e rest hq, by rw [← h]; exact hk⟩
    | read o w =>
      simp only [hostAct] at h
      split at h
      · rename_i hok
        have hw : w = 32 := by simp [hostAccessOk, hostWidth] at hok; exact hok.1
        subst hw
        injection h with h
        obtain ⟨k, hk⟩ := workOn_cases
          { s with hostQueue := rest, hostReads := s.hostReads ++ [readHostReg o { s with hostQueue := rest }] }
        exact ⟨_, k, .read e o rest hq, by rw [← h]; exact hk⟩
      · cases h
    | write o w v =>
      simp only [hostAct] at h
      split at h
      · rename_i hok
        have hw : w = 32 := by simp [hostAccessOk, hostWidth] at hok; exact hok.1
        subst hw
        split at h
        · rename_i ho
          have ho' : o = 0 := ho
          subst ho'
          simp only [writeCmd] at h
          split at h
          · rename_i hb
            injection h with h
            obtain ⟨k, hk⟩ := workOn_cases (refuseWord { s with hostQueue := rest })
            exact ⟨_, k, .refused e v rest hq (Or.inl hb), by rw [← h]; exact hk⟩
          · rename_i hb
            split at h
            · rename_i i hd
              obtain ⟨k, hk⟩ := startCommand_cases i { s with hostQueue := rest }
              rw [hk] at h
              injection h with h
              exact ⟨_, k, .accepted e v i rest hq (by simpa using hb) hd, h.symm⟩
            · rename_i c hd
              injection h with h
              obtain ⟨k, hk⟩ := workOn_cases (refuseWord { s with hostQueue := rest })
              exact ⟨_, k, .refused e v rest hq (Or.inr ⟨c, hd⟩), by rw [← h]; exact hk⟩
        · rename_i ho
          injection h with h
          obtain ⟨k, hk⟩ := workOn_cases { s with hostQueue := rest }
          exact ⟨_, k, .ignored e o v rest ho hq, by rw [← h]; exact hk⟩
      · cases h

end Sys2Proof.Machine
end

