-- ==== Sys2Proof/Laws/Target.lean ====
section
/-! SUPPORT. Watching pin events (spec/00_scope.md R7, spec/10_state.md R28): one lemma per event, and lists of events one after the
other. -/

namespace Sys2Proof.Machine

@[simp] theorem wireEvent_set_tms (w : Wires) : wireEvent w (.set .tms) = { w with tms := true } := rfl
@[simp] theorem isRise_set_tms (w : Wires) : isRise w (.set .tms) = false := rfl
@[simp] theorem wireEvent_clr_tms (w : Wires) : wireEvent w (.clr .tms) = { w with tms := false } := rfl
@[simp] theorem isRise_clr_tms (w : Wires) : isRise w (.clr .tms) = false := rfl
@[simp] theorem wireEvent_set_tdi (w : Wires) : wireEvent w (.set .tdi) = { w with tdi := true } := rfl
@[simp] theorem isRise_set_tdi (w : Wires) : isRise w (.set .tdi) = false := rfl
@[simp] theorem wireEvent_clr_tdi (w : Wires) : wireEvent w (.clr .tdi) = { w with tdi := false } := rfl
@[simp] theorem isRise_clr_tdi (w : Wires) : isRise w (.clr .tdi) = false := rfl
@[simp] theorem wireEvent_set_tck (w : Wires) : wireEvent w (.set .tck) = { w with tck := true } := rfl
@[simp] theorem wireEvent_clr_tck (w : Wires) : wireEvent w (.clr .tck) = { w with tck := false } := rfl
@[simp] theorem isRise_clr_tck (w : Wires) : isRise w (.clr .tck) = false := rfl
@[simp] theorem wireEvent_set_rst (w : Wires) : wireEvent w (.set .rst) = { w with rst := true } := rfl
@[simp] theorem isRise_set_rst (w : Wires) : isRise w (.set .rst) = false := rfl
@[simp] theorem wireEvent_clr_rst (w : Wires) : wireEvent w (.clr .rst) = { w with rst := false } := rfl
@[simp] theorem isRise_clr_rst (w : Wires) : isRise w (.clr .rst) = false := rfl
@[simp] theorem wireEvent_set_tst (w : Wires) : wireEvent w (.set .tst) = { w with tst := true } := rfl
@[simp] theorem isRise_set_tst (w : Wires) : isRise w (.set .tst) = false := rfl
@[simp] theorem wireEvent_clr_tst (w : Wires) : wireEvent w (.clr .tst) = { w with tst := false } := rfl
@[simp] theorem isRise_clr_tst (w : Wires) : isRise w (.clr .tst) = false := rfl
@[simp] theorem isRise_set_tck (w : Wires) : isRise w (.set .tck) = !w.tck := rfl
@[simp] theorem wireEvent_rd (w : Wires) (v : Bool) : wireEvent w (.rd v) = w := rfl
@[simp] theorem isRise_rd (w : Wires) (v : Bool) : isRise w (.rd v) = false := rfl
@[simp] theorem wireEvent_waitUs (w : Wires) (n : Nat) : wireEvent w (.waitUs n) = w := rfl
@[simp] theorem isRise_waitUs (w : Wires) (n : Nat) : isRise w (.waitUs n) = false := rfl
@[simp] theorem wireEvent_waitMs (w : Wires) (n : Nat) : wireEvent w (.waitMs n) = w := rfl
@[simp] theorem isRise_waitMs (w : Wires) (n : Nat) : isRise w (.waitMs n) = false := rfl

@[simp] theorem wireEvent_lineEvent_tdi (w : Wires) (v : Bool) : wireEvent w (lineEvent .tdi v) = { w with tdi := v } := by
  cases v <;> rfl

@[simp] theorem isRise_lineEvent_tdi (w : Wires) (v : Bool) : isRise w (lineEvent .tdi v) = false := by
  cases v <;> rfl

theorem watchAll_append (v : TapView) (xs ys : List PinEvent) :
    watchAll v (xs ++ ys) = watchAll (watchAll v xs) ys := by
  induction xs generalizing v with
  | nil => rfl
  | cons e es ih => exact ih (watch v e)

/-- The levels after some events, in order. -/
theorem watchAll_wires (v : TapView) (es : List PinEvent) : (watchAll v es).wires = es.foldl wireEvent v.wires := by
  induction es generalizing v with
  | nil => rfl
  | cons e es ih => exact ih (watch v e)

theorem edgeLevels_append (w : Wires) (xs ys : List PinEvent) :
    edgeLevels w (xs ++ ys) = edgeLevels w xs ++ edgeLevels (xs.foldl wireEvent w) ys := by
  induction xs generalizing w with
  | nil => rfl
  | cons e es ih => simp [edgeLevels, ih]

theorem edgeTaps_append (v : TapView) (xs ys : List PinEvent) :
    edgeTaps v (xs ++ ys) = edgeTaps v xs ++ edgeTaps (watchAll v xs) ys := by
  induction xs generalizing v with
  | nil => rfl
  | cons e es ih => simp [edgeTaps, watchAll, ih]

theorem rdValues_append (xs ys : List PinEvent) : rdValues (xs ++ ys) = rdValues xs ++ rdValues ys := by
  induction xs with
  | nil => rfl
  | cons e es ih => cases e <;> simp [rdValues, ih]

@[simp] theorem rdValues_lineEvent (l : Line) (v : Bool) : rdValues [lineEvent l v] = [] := by
  cases v <;> rfl

end Sys2Proof.Machine
end

