-- ==== Sys2Proof/Tests/Slice0.lean ====
section
/-! SUPPORT. Small tests with expected results from spec/95_test_vectors.md and the rules, and, for every statement that has
hypotheses, a witness that they can be met together. -/

namespace Sys2Proof.Tests

open Sys2Proof Sys2Proof.Machine

/-- A start state of the vectors: RST and TST are 1 unless stated. -/
def start (tms tdi tck : Bool) (q : Tap) : State :=
  { State.reset with outTms := tms, outTdi := tdi, outTck := tck, outRst := true, outTst := true, tap := q }

/-- The target answers with the `n` low bits of `v`, most significant first. -/
def answering (n : Nat) (v : Half) (s : State) : State := { s with tdoSource := .target (dataBits n v) }

/-- TDI wired to TDO. -/
def loopback (s : State) : State := { s with tdoSource := .loopback }

/-- The host's moves to come. -/
def withMoves (q : List HostMove) (s : State) : State := { s with hostQueue := q }

/-- A write of `CMD` by a host that waits. -/
def cmd (w : Word) : HostMove := ⟨none, .write 0x0 32 w⟩

/-- The state after a command; the start where there is none. -/
def after (i : Instr) (s : State) : State :=
  match exec i s with
  | .next t => t
  | .fault _ => s
  | .refused _ => s

/-- The state after a step. -/
def stepped (s : State) : State :=
  match step s with
  | .next t => t
  | .fault _ => s
  | .refused _ => s

/-- A pin map that R5 allows, with pins at both ends of the port. -/
def pins : PinMap := ⟨8, 0, 1, 2, 5, 6, 7⟩

/-- A platform's addresses. -/
def addresses : AddressMap := ⟨0x40000, 0x1000, 0x18, 0x28, 0x10⟩

/-! Well-formedness: each check refuses an ill-formed command. -/

theorem test_wellFormed_refuses_wide_shift8 : (Instr.shift8 0x0100#16).wellFormed = false := by decide
theorem test_wellFormed_refuses_wide_irShift : (Instr.irShift 0x01A5#16).wellFormed = false := by decide
theorem test_wellFormed_accepts :
    (Instr.shift8 0x00FF#16).wellFormed = true ∧ (Instr.irShift 0x00FF#16).wellFormed = true ∧
      (Instr.shift16 0xFFFF#16).wellFormed = true := by decide

/-! Decoding: words put together bit by bit from R70 and R73 (`op`, `fmt`, `imm`), and the vectors V70 to V85. -/

/-- Group 1: `op[7:4]` = 1, `op[3:1]` the line, `op[0]` the level. -/
theorem test_decode_lines :
    decode (0b0001#4 ++ 0b000#3 ++ 0b0#1 ++ 0x000000#24) = .ok .clrTms ∧
    decode (0b0001#4 ++ 0b000#3 ++ 0b1#1 ++ 0x000000#24) = .ok .setTms ∧
    decode (0b0001#4 ++ 0b001#3 ++ 0b0#1 ++ 0x000000#24) = .ok .clrTdi ∧
    decode (0b0001#4 ++ 0b001#3 ++ 0b1#1 ++ 0x000000#24) = .ok .setTdi ∧
    decode (0b0001#4 ++ 0b010#3 ++ 0b0#1 ++ 0x000000#24) = .ok .clrTck ∧
    decode (0b0001#4 ++ 0b010#3 ++ 0b1#1 ++ 0x000000#24) = .ok .setTck := by decide
theorem test_decode_more_lines :
    decode (0b0001#4 ++ 0b011#3 ++ 0b0#1 ++ 0x000000#24) = .ok .clrTclk ∧
    decode (0b0001#4 ++ 0b011#3 ++ 0b1#1 ++ 0x000000#24) = .ok .setTclk ∧
    decode (0b0001#4 ++ 0b100#3 ++ 0b0#1 ++ 0x000000#24) = .ok .clrRst ∧
    decode (0b0001#4 ++ 0b100#3 ++ 0b1#1 ++ 0x000000#24) = .ok .setRst ∧
    decode (0b0001#4 ++ 0b101#3 ++ 0b0#1 ++ 0x000000#24) = .ok .clrTst ∧
    decode (0b0001#4 ++ 0b101#3 ++ 0b1#1 ++ 0x000000#24) = .ok .setTst := by decide
theorem test_decode_sample_and_delays :
    decode (0b00100000#8 ++ 0b00000000#8 ++ 0x0000#16) = .ok .scanTdo ∧
    decode (0b00110000#8 ++ 0b00000000#8 ++ 0b0000000000000101#16) = .ok (.delayUs 5#16) ∧
    decode (0b00110001#8 ++ 0b00000000#8 ++ 0b0000000000001010#16) = .ok (.delayMs 10#16) := by decide
theorem test_decode_shifts_scans_reset :
    decode (0b01000000#8 ++ 0b00001000#8 ++ 0b0000000010000001#16) = .ok (.shift8 0x81#16) ∧
    decode (0b01000000#8 ++ 0b00010000#8 ++ 0b1010010111000011#16) = .ok (.shift16 0xA5C3#16) ∧
    decode (0b01000001#8 ++ 0b00000000#8 ++ 0b1010101010101010#16) = .ok (.drShift16 0xAAAA#16) ∧
    decode (0b01000010#8 ++ 0b00000000#8 ++ 0b0000000010100101#16) = .ok (.irShift 0xA5#16) ∧
    decode (0b01010000#8 ++ 0b00000000#8 ++ 0x0000#16) = .ok .resetTap := by decide
/-- V74 to V76, V85. -/
theorem test_decode_unknown_op :
    decode 0x00000000#32 = .error .unknownOp ∧ decode 0xFFFFFFFF#32 = .error .unknownOp ∧
    decode 0x1F000000#32 = .error .unknownOp ∧ decode 0x43000000#32 = .error .unknownOp ∧
    decode 0x21000000#32 = .error .unknownOp ∧ decode 0x0F000000#32 = .error .unknownOp := by decide
/-- V77 to V84. -/
theorem test_decode_bad_fields :
    decode 0x11010000#32 = .error .fmtNotZero ∧ decode 0x20000001#32 = .error .immNotZero ∧
    decode 0x40200000#32 = .error .badFormat ∧ decode 0x40080100#32 = .error .operandTooWide ∧
    decode 0x30010005#32 = .error .fmtNotZero ∧ decode 0x50000001#32 = .error .immNotZero := by decide
theorem test_encode_words :
    encode (.irShift 0xA5#16) = 0x420000A5#32 ∧ encode (.shift8 0x81#16) = 0x40080081#32 ∧
    encode .setTst = 0x1B000000#32 := by decide
theorem test_decodeTableWord :
    decodeTableWord 32 0x420000A5 = some (.irShift 0xA5#16) ∧ decodeTableWord 32 0x00000000 = none := by decide
/-- The word placed by `withFetchWord` runs as the first command after reset (V40). -/
theorem test_withFetchWord_runs_it : (stepped (State.reset.withFetchWord 32 0x11000000)).events = [.set .tms] := by decide
/-- R75 and R76. -/
theorem test_assembly_and_pseudo :
    assemblyLine (.shift8 255#16) = "SHIFT.8 255" ∧ expandPseudo (.shift 9 0#16) = none := by decide

/-- R75: a comment, hexadecimal and decimal operands, an operand out of range, a mnemonic not in capitals. -/
theorem test_assembleLine :
    assembleLine "IR_SHIFT 0xA5 ; an instruction".toList = some [.irShift 0xA5#16] ∧
    assembleLine "DELAY_US 65535".toList = some [.delayUs 0xFFFF#16] ∧
    assembleLine "SHIFT.8 0x100".toList = none ∧ assembleLine "set_tms".toList = none := by decide
/-- R76, and a line of comment only. -/
theorem test_assemble_pseudo :
    assembleLine "PULSE_TCK".toList = some [.clrTck, .setTck] ∧
    assembleLine "SHIFT 16, 0xBEEF".toList = some [.shift16 0xBEEF#16] ∧
    assembleLine "SHIFT 9, 0x55".toList = none ∧ assembleLine "; nothing".toList = some [] := by decide

/-! One command each: the vectors of spec/95_test_vectors.md. -/

/-- V40. -/
theorem test_clrTms : (after .clrTms (start true false true .runTestIdle)).outTms = false := by decide
/-- V54: the event also comes when no level changes. -/
theorem test_setTms : (after .setTms (start true false true .runTestIdle)).events = [.set .tms] := by decide
/-- V42. -/
theorem test_clrTdi :
    (after .clrTdi { start false true true .runTestIdle with tclkLatch := true }).tclkLatch = true := by decide
/-- V43. -/
theorem test_setTdi : (after .setTdi (start false false true .runTestIdle)).outTdi = true := by decide
/-- V55. -/
theorem test_clrTck : (after .clrTck (start false false false .shiftDr)).tap = .shiftDr := by decide
/-- V45. -/
theorem test_setTck_edge : (after .setTck (start true false false .runTestIdle)).tap = .selectDrScan := by decide
/-- V52. -/
theorem test_setTck_no_edge : (after .setTck (start true false true .runTestIdle)).tap = .runTestIdle := by decide
/-- V46. -/
theorem test_clrTclk : (after .clrTclk (start false true true .runTestIdle)).events = [.clr .tdi] := by decide
/-- V47. -/
theorem test_setTclk : (after .setTclk (start false false true .runTestIdle)).outTdi = true := by decide
/-- V48. -/
theorem test_clrRst : (after .clrRst (start false false true .shiftDr)).outRst = false := by decide
/-- V49. -/
theorem test_setRst : (after .setRst State.reset).outRst = true := by decide
/-- V50. -/
theorem test_clrTst : (after .clrTst (start false false true .shiftDr)).outTst = false := by decide
/-- V51. -/
theorem test_setTst : (after .setTst State.reset).events = [.set .tst] := by decide
/-- V60. -/
theorem test_scanTdo_high :
    (after .scanTdo { answering 1 1#16 State.reset with result := 0xFFFF#16 }).result = 0x0001#16 := by decide
/-- V61, the second sample. -/
theorem test_scanTdo_low : (after .scanTdo (answering 1 0#16 State.reset)).events = [.rd false] := by decide
/-- V63. -/
theorem test_delayUs_zero : (after (.delayUs 0#16) State.reset).events = [.waitUs 0] := by decide
/-- V65. -/
theorem test_delayMs_most : (after (.delayMs 0xFFFF#16) State.reset).events = [.waitMs 65535] := by decide
/-- V11: the answers, not the datum. -/
theorem test_shift8_result :
    (after (.shift8 0xFF#16) (answering 8 0x89#16 (start false true true .shiftIr))).result = 0x0089#16 := by decide +kernel
/-- V12: from Shift-DR with TMS already 1. -/
theorem test_shift8_walks_away :
    (after (.shift8 0x3C#16) (loopback (start true false true .shiftDr))).tap = .runTestIdle := by decide +kernel
/-- V20: the loopback round trip. -/
theorem test_shift16_loopback :
    (after (.shift16 0xA5C3#16) (loopback (start false true true .shiftDr))).result = 0xA5C3#16 := by decide +kernel
/-- V21: TDI comes back to its level before the shift. -/
theorem test_shift16_restores_tdi :
    (after (.shift16 0x8001#16) (answering 16 0x7FFE#16 (start false false true .shiftDr))).outTdi = false := by decide +kernel
/-- V1: the scan of the fuse check. -/
theorem test_drShift16_result :
    (after (.drShift16 0xAAAA#16) (answering 16 0x5555#16 (start false false true .runTestIdle))).result = 0x5555#16 := by
  decide +kernel
/-- V14: from Test-Logic-Reset. -/
theorem test_drShift16_wrong_start :
    (after (.drShift16 0x1234#16) (answering 16 0xFFFF#16 (start true true true .testLogicReset))).tap = .captureIr := by
  decide +kernel
/-- V4: the forty-nine events in order. -/
theorem test_irShift_events :
    (after (.irShift 0xA5#16) (answering 8 0x89#16 (start false true true .runTestIdle))).events =
      [[.set .tms, .clr .tck, .set .tck, .clr .tck, .set .tck, .clr .tms, .clr .tck, .set .tck, .clr .tck, .set .tck],
        [.set .tdi, .clr .tck, .set .tck, .rd true, .clr .tdi, .clr .tck, .set .tck, .rd false],
        [.set .tdi, .clr .tck, .set .tck, .rd false, .clr .tdi, .clr .tck, .set .tck, .rd false],
        [.clr .tdi, .clr .tck, .set .tck, .rd true, .set .tdi, .clr .tck, .set .tck, .rd false],
        [.clr .tdi, .clr .tck, .set .tck, .rd false, .set .tdi, .set .tms, .clr .tck, .set .tck, .rd true],
        [.set .tdi, .clr .tck, .set .tck, .clr .tms, .clr .tck, .set .tck]].flatten := by decide +kernel
/-- V93 after V4. -/
theorem test_status_after_irShift :
    statusWord (after (.irShift 0xA5#16) (answering 8 0x89#16 (start false true true .runTestIdle))) = 0x00003D10#32 := by
  decide +kernel
/-- V30: the twenty-three events in order. -/
theorem test_resetTap_events :
    (after .resetTap (start false false false .shiftDr)).events =
      [[.set .tdi, .set .tms, .set .tck, .clr .tck, .set .tck, .clr .tck, .set .tck, .clr .tck, .set .tck],
        [.clr .tck, .set .tck, .clr .tck, .set .tck, .clr .tck, .set .tck, .clr .tck, .clr .tms, .set .tck],
        [.waitUs 5, .set .tms, .clr .tms, .waitUs 5, .set .tms]].flatten := by decide +kernel
/-- V93 after V30. -/
theorem test_status_after_resetTap :
    statusWord (after .resetTap { start false false false .shiftDr with tclkLatch := true }) = 0x00003F10#32 := by decide +kernel

/-! The host space, the refusals and reset. -/

/-- V90: `err` and nothing else. -/
theorem test_illegal_word :
    stepped (withMoves [cmd 0x40090055#32] (start false true true .runTestIdle)) =
      { start false true true .runTestIdle with err := true } := by decide
/-- V92: a word after the 30th event, 32 micro-steps in (the save and the load emit none), is dropped. -/
theorem test_busy_word :
    (stepped (withMoves [cmd 0x4100AAAA#32, ⟨some 32, .write 0x0 32 0x11000000#32⟩]
      (answering 16 0x5555#16 (start false false true .runTestIdle)))).busy = true ∧
    (stepped (stepped (withMoves [cmd 0x4100AAAA#32, ⟨some 32, .write 0x0 32 0x11000000#32⟩]
      (answering 16 0x5555#16 (start false false true .runTestIdle))))).result = 0x5555#16 ∧
    (stepped (stepped (withMoves [cmd 0x4100AAAA#32, ⟨some 32, .write 0x0 32 0x11000000#32⟩]
      (answering 16 0x5555#16 (start false false true .runTestIdle))))).err = true := by decide +kernel
/-- V93 after reset with all free bits 0. -/
theorem test_status_after_reset : statusWord State.reset = 0#32 := by decide
/-- R35, R37: what the host reads. -/
theorem test_reads :
    (stepped (withMoves [⟨none, .read 0x4 32⟩] { State.reset with result := 0x89#16 })).hostReads = [0x89#32] := by decide
/-- R5: a port whose width is not given is 32 bits wide. -/
theorem test_default_width : ({ tms := 0, tdi := 1, tck := 2, tdo := 29, rst := 30, tst := 31 } : PinMap).Wf := by decide
/-- R37 at STATUS's own address; R56 just below the base. -/
theorem test_addresses :
    (stepped (withMoves [⟨none, busAction addresses (.read 0x40008 32)⟩] State.reset)).hostReads = [0#32] ∧
    step (withMoves [⟨none, busAction addresses (.read 0x3FFFC 32)⟩] State.reset) = .refused .unsupportedHostAccess :=
  ⟨by decide, rfl⟩
/-- R51, R53: pin 7 of an eight-bit port. -/
theorem test_gpio : (oneHot pins .tst).toNat = 0x80 ∧ (inputWord pins 0xFF#8 false).toNat = 0xDF := by decide
/-- R26: two neighbours of the DR column. -/
theorem test_tapCode : tapCode .pauseDr = 6#4 ∧ tapCode .exit2Dr = 7#4 := by decide
/-- V95: a path of the TAP table. -/
theorem test_tapWalk : tapWalk .shiftIr [true, false, false, true, true, true] = .selectDrScan := by decide

/-! Witnesses: the hypotheses of each statement are met together. -/

theorem witness_DecodeOfEncodeIsTheCommand : (Instr.irShift 0x00FF#16).WellFormed := by decide
theorem witness_EncodeOfDecodeIsTheWord : decode 0x400800FF#32 = .ok (.shift8 0xFF#16) := by decide
theorem witness_DecodingFollowsTheOneMatchingRow :
    (∃ r ∈ opcodeRows, 0x4010FFFF#32 &&& r.mask = r.value) ∧ ∀ r ∈ opcodeRows, 0x40090000#32 &&& r.mask ≠ r.value := by
  decide
/-- A word of each class, and an idle block. -/
theorem witness_IllegalWordsAreTheFiveClasses :
    IllegalByFields 0x1C000000#32 ∧ IllegalByFields 0x40000000#32 ∧ IllegalByFields 0x51FF0000#32 ∧
      IllegalByFields 0x1B000001#32 ∧ IllegalByFields 0x40080100#32 ∧ IllegalByFields 0x42000100#32 ∧
      Idle State.reset :=
  ⟨by decide, by decide, by decide, by decide, by decide, by decide, by decide⟩
theorem witness_OnlyARisingTckMovesTap : ∃ s t : State,
    step s = .next t ∧ notReset s.hostQueue.head? = true ∧ PinEvent.set .tck ∉ newEvents s t :=
  ⟨withMoves [cmd 0x14000000#32] (start true false true .shiftDr), _, rfl, rfl, by decide⟩
theorem witness_TapCopyFollowsThePinEvents : ∃ s t : State, step s = .next t ∧ notReset s.hostQueue.head? = true :=
  ⟨withMoves [cmd 0x41001234#32] (loopback (start true true false .pauseIr)), _, rfl, rfl⟩
theorem witness_ScanTdoStoresTheSample :
    (loopback State.reset).tdoSource = .loopback ∧ (answering 2 2#16 State.reset).tdoSource = .target [true, false] := by
  decide
/-- Both formats, the first and the last read, and the first bit above the format. -/
theorem witness_ResultIsTheReadsMostSignificantFirst :
    (∃ t : State, exec (shiftCommand .eight 0x81#16) (loopback State.reset) = .next t ∧
      (rdValues (newEvents (loopback State.reset) t))[0]? = some true ∧
      (rdValues (newEvents (loopback State.reset) t))[7]? = some true ∧ formatBits .eight ≤ 8) ∧
    (∃ t : State, exec (shiftCommand .sixteen 0x8001#16) (loopback State.reset) = .next t ∧
      (rdValues (newEvents (loopback State.reset) t))[15]? = some true ∧ formatBits .sixteen ≤ 16) :=
  ⟨⟨_, rfl, by decide +kernel, by decide +kernel, by decide +kernel⟩, ⟨_, rfl, by decide +kernel, by decide +kernel⟩⟩
/-- A scan, and a bare shift from each intended start. -/
theorem witness_TclkIsPreservedAcrossEveryShift :
    (containsShift (.irShift 0x5A#16) = true ∧ ∃ t : State, exec (.irShift 0x5A#16) State.reset = .next t) ∧
    (∃ t : State, (start false true true .shiftDr).outTms = false ∧ (start false true true .shiftDr).tap = .shiftDr ∧
      exec (shiftCommand .sixteen 1#16) (start false true true .shiftDr) = .next t) ∧
    (∃ t : State, (start false true true .shiftIr).outTms = false ∧ (start false true true .shiftIr).tap = .shiftIr ∧
      exec (shiftCommand .eight 1#16) (start false true true .shiftIr) = .next t) :=
  ⟨⟨rfl, _, rfl⟩, ⟨_, rfl, rfl, rfl⟩, ⟨_, rfl, rfl, rfl⟩⟩
theorem witness_LoopbackReturnsTheDatum : (loopback (start false true true .shiftDr)).tdoSource = .loopback := rfl
theorem witness_ShiftEventCounts : ∃ t : State, exec (shiftCommand .eight 0xFF#16) (loopback State.reset) = .next t :=
  ⟨_, rfl⟩
/-- Two unlike states, and a start for each example. -/
theorem witness_ShiftChecksNothing :
    (∃ t t' : State, exec (shiftCommand .eight 0x3C#16) (loopback (start true false true .shiftDr)) = .next t ∧
      exec (shiftCommand .eight 0x3C#16) (answering 8 0#16 (start false true false .runTestIdle)) = .next t') ∧
    (∀ q ∈ [Tap.shiftDr, .shiftIr, .runTestIdle, .pauseDr], (start false false true q).outTms = false ∧
      (start false false true q).tap = q ∧ (∃ t : State, exec (.shift8 0#16) (start false false true q) = .next t) ∧
      ∀ f : ShiftFormat, ∃ t : State, exec (shiftCommand f 0#16) (start false false true q) = .next t) :=
  ⟨⟨_, _, rfl, rfl⟩, fun _ _ => ⟨rfl, rfl, ⟨_, rfl⟩, fun f => by cases f <;> exact ⟨_, rfl⟩⟩⟩
theorem witness_ScansStartAndEndInRunTestIdle :
    (∃ t : State, exec (.drShift16 0#16) (start true false false .runTestIdle) = .next t) ∧
    (∃ t : State, exec (.irShift 0#16) (start true false false .runTestIdle) = .next t) ∧
    (start true false false .runTestIdle).tap = .runTestIdle ∧
    (start true false true .testLogicReset).tap = .testLogicReset ∧
    (∃ t : State, exec (.drShift16 0#16) (start true false true .testLogicReset) = .next t) :=
  ⟨⟨_, rfl⟩, ⟨_, rfl⟩, rfl, rfl, ⟨_, rfl⟩⟩
theorem witness_RunTestIdleIsKeptBetweenScans :
    keepsScansSafe (.drShift16 0#16) = true ∧ keepsScansSafe .setTms = true ∧
      (start true false false .runTestIdle).tap = .runTestIdle := by decide
/-- A command that writes nothing, so that every clause's condition holds, and one that shifts. -/
theorem witness_OnlyTheNamedCommandsWriteEachRegister :
    (∃ t : State, exec (.delayUs 5#16) State.reset = .next t) ∧ containsShift (.delayUs 5#16) = false ∧
      Instr.delayUs 5#16 ∉ ([.setTms, .clrTms, .resetTap] : List Instr) ∧
      Instr.delayUs 5#16 ∉ ([.setTdi, .clrTdi, .setTclk, .clrTclk, .resetTap] : List Instr) ∧
      Instr.delayUs 5#16 ∉ ([.setTck, .clrTck, .resetTap] : List Instr) ∧
      Instr.delayUs 5#16 ∉ ([.setRst, .clrRst] : List Instr) ∧ Instr.delayUs 5#16 ∉ ([.setTst, .clrTst] : List Instr) ∧
      Instr.delayUs 5#16 ≠ .scanTdo ∧ ∃ t : State, exec (.irShift 0#16) State.reset = .next t :=
  ⟨⟨_, rfl⟩, by decide, by decide, by decide, by decide, by decide, by decide, by decide, ⟨_, rfl⟩⟩
/-- Another bit than TDO's, within the port. -/
theorem witness_GpioMasksAreOneHot : pins.Wf ∧ 7 ≠ pins.tdo := by decide
/-- Bit 3 of the port belongs to nobody. -/
theorem witness_PortShowsTheLatchesAfterEveryStep :
    pins.Wf ∧ PortShows pins 0x08#8 State.reset ∧ (∀ l : Line, 3 ≠ pinOf pins l) ∧
    ∃ t : State, step (withMoves [cmd 0x50000000#32] State.reset) = .next t ∧
      PortShows pins 0x08#8 (withMoves [cmd 0x50000000#32] State.reset) ∧
      notReset (withMoves [cmd 0x50000000#32] State.reset).hostQueue.head? = true :=
  ⟨by decide, fun l => by cases l <;> decide, fun l => by cases l <;> decide, _, rfl,
    fun l => by cases l <;> decide, rfl⟩
/-- In the middle of a shift: two bits are still to go. -/
theorem witness_StepKeepsTheInvariant : ∃ s t : State, Inv s ∧ s.busy = true ∧ step s = .next t :=
  ⟨{ State.reset with busy := true, cnt := 2#5, micro := (shift8Steps 0x81#16).drop 32 }, _,
    ⟨by decide, Or.inr ⟨.shift8 0x81#16, by decide, List.drop_suffix _ _⟩, fun _ _ => by decide⟩, rfl, rfl⟩
theorem witness_StepRunsTheDecodedCommand :
    State.reset.busy = false ∧ decode 0x50000000#32 = .ok .resetTap ∧
      (∀ mv ∈ ([cmd 0x13000000#32] : List HostMove).head?, mv.early = none) := by decide
/-- An idle block with a legal and with an illegal word, and a busy block. -/
theorem witness_CmdAcceptsRefusesAndReadsZero :
    Idle State.reset ∧ decode 0x13000000#32 = .ok .setTdi ∧ decode 0x13000001#32 = .error .immNotZero ∧
      (accept (commandSteps .resetTap) State.reset).busy = true := by decide
theorem witness_ResultRegisterReads : Idle (start true true true .shiftDr) := by decide
theorem witness_StatusRegisterLayout : Idle (start true true true .updateIr) := by decide
/-- A narrow access at a good offset, full ones just above and just below the registers. -/
theorem witness_OtherHostAccessesAreRefused :
    (31 ≠ 32 ∨ ((0x0 : Int) ≠ 0x0 ∧ (0x0 : Int) ≠ 0x4 ∧ (0x0 : Int) ≠ 0x8)) ∧
      (32 ≠ 32 ∨ ((0xC : Int) ≠ 0x0 ∧ (0xC : Int) ≠ 0x4 ∧ (0xC : Int) ≠ 0x8)) ∧
      (32 ≠ 32 ∨ ((-1 : Int) ≠ 0x0 ∧ (-1 : Int) ≠ 0x4 ∧ (-1 : Int) ≠ 0x8)) := by decide
/-- The address just below the base and the one after the last register; an idle block; a map with distinct GPIO addresses. -/
theorem witness_RegistersLieAtTheirAddresses :
    (32 ≠ 32 ∨ (0x3FFFF ≠ addresses.hostBase + 0x0 ∧ 0x3FFFF ≠ addresses.hostBase + 0x4 ∧
      0x3FFFF ≠ addresses.hostBase + 0x8)) ∧
    (32 ≠ 32 ∨ (0x4000C ≠ addresses.hostBase + 0x0 ∧ 0x4000C ≠ addresses.hostBase + 0x4 ∧
      0x4000C ≠ addresses.hostBase + 0x8)) ∧
    Idle State.reset ∧ addresses.Wf := by decide
/-- The first and the last moment at which a word comes early. -/
theorem witness_EarlyWordsDoNotDisturbTheCommand :
    Idle State.reset ∧ decode 0x4100AAAA#32 = .ok (.drShift16 0xAAAA#16) ∧ 0 < (commandSteps (.drShift16 0xAAAA#16)).length ∧
      (commandSteps (.drShift16 0xAAAA#16)).length - 1 < (commandSteps (.drShift16 0xAAAA#16)).length := by decide
/-- `err` held at 1 over a step, and set by a step. -/
theorem witness_ErrIsStickyAndSetByRefusalsOnly :
    (∃ s t : State, step s = .next t ∧ notReset s.hostQueue.head? = true ∧ s.err = true) ∧
    (∃ s t : State, step s = .next t ∧ s.err = false ∧ t.err = true) ∧
    (∃ t : State, exec .setTdi State.reset = .next t) :=
  ⟨⟨withMoves [cmd 0x13000000#32] { State.reset with err := true }, _, rfl, rfl, rfl⟩,
    ⟨withMoves [cmd 0x00000000#32] State.reset, _, rfl, rfl, by decide⟩, ⟨_, rfl⟩⟩
theorem witness_IllegalWordSetsErrOnly :
    Idle State.reset ∧ ∀ r ∈ opcodeRows, 0x40090055#32 &&& r.mask ≠ r.value := by decide
/-- An idle block and a running one, with no move to come. -/
theorem witness_WithoutAMoveTheBlockFinishesAndRests :
    State.reset.hostQueue = [] ∧ Idle State.reset ∧ (accept (commandSteps .resetTap) State.reset).hostQueue = [] := by
  decide

end Sys2Proof.Tests
end

section
/-! Walking the TAP copy along TMS levels (spec/10_state.md R29). -/

namespace Sys2Proof.Machine

/-- An edge with TMS = 1 brings Test-Logic-Reset one edge nearer, and does not leave it. -/
theorem edgesToReset_tapNext_true (q : Tap) : edgesToReset (tapNext q true) = edgesToReset q - 1 := by
  cases q <;> rfl

theorem edgesToReset_eq_zero_iff (q : Tap) : edgesToReset q = 0 ↔ q = .testLogicReset := by
  cases q <;> decide

theorem tapWalk_replicate_true_iff (q : Tap) (n : Nat) :
    tapWalk q (List.replicate n true) = .testLogicReset ↔ edgesToReset q ≤ n := by
  induction n generalizing q with
  | zero => simp [tapWalk, edgesToReset_eq_zero_iff]
  | succ n ih =>
    rw [List.replicate_succ, tapWalk, ih, edgesToReset_tapNext_true]
    omega

/-- A state that an edge keeps is kept by any number of such edges. -/
theorem tapWalk_replicate_of_fixed {q : Tap} {tms : Bool} (h : tapNext q tms = q) (n : Nat) :
    tapWalk q (List.replicate n tms) = q := by
  induction n with
  | zero => rfl
  | succ n ih => rw [List.replicate_succ, tapWalk, h, ih]

/-- Settles O7: TMS = 1 by induction on the number of edges, the shift states as fixed points of TMS = 0. -/
theorem tapNextProperties : Obligations.TapNextProperties := by
  have stay {q : Tap} (h : tapNext q false = q) (n : Nat) (path : List Bool) :
      tapWalk q (List.replicate n false ++ path) = tapWalk q path := by
    rw [tapWalk_append, tapWalk_replicate_of_fixed h]
  refine ⟨tapWalk_replicate_true_iff, fun q => by cases q <;> decide, ⟨rfl, rfl, rfl⟩, ⟨rfl, rfl, rfl⟩,
    fun n => ⟨tapWalk_replicate_of_fixed rfl n, ?_, ?_, ?_⟩,
    fun n => ⟨tapWalk_replicate_of_fixed rfl n, ?_, ?_, ?_⟩, rfl, rfl⟩ <;>
  exact stay rfl n _

end Sys2Proof.Machine
end

section
/-! The TAP copy and the pin events (spec/10_state.md R28, R30): every micro-step, and so every step but the reset input, adds events
that lead a TAP controller from the block's view before to its view after. -/

namespace Sys2Proof.Machine

/-- From `s` to `t` pin events are only added, and a TAP controller that watches those goes from the block's view at `s` to its view
at `t`. -/
def EventsLead (s t : State) : Prop :=
  ∃ es, t.events = s.events ++ es ∧ watchAll (viewOf s) es = viewOf t

/-- States with the same events and the same view: what changes between them does not show at the pins. -/
theorem EventsLead.of_eq {s t : State} (he : t.events = s.events) (hv : viewOf t = viewOf s) : EventsLead s t :=
  ⟨[], by simp [he], hv.symm⟩

theorem EventsLead.trans {s t u : State} (hst : EventsLead s t) (htu : EventsLead t u) : EventsLead s u := by
  obtain ⟨es, hes, hs⟩ := hst
  obtain ⟨fs, hfs, ht⟩ := htu
  exact ⟨es ++ fs, by rw [hfs, hes, List.append_assoc], by rw [watchAll_append, hs, ht]⟩

theorem setLine_eventsLead (l : Line) (s : State) : EventsLead s (setLine l s) := by
  refine ⟨[.set l], ?_, ?_⟩
  · cases l <;> simp
  · cases l <;> cases h : s.outTck <;> simp [watchAll, watch, viewOf, wiresOf, h]

theorem clrLine_eventsLead (l : Line) (s : State) : EventsLead s (clrLine l s) := by
  refine ⟨[.clr l], ?_, ?_⟩ <;> cases l <;> simp [watchAll, watch, viewOf, wiresOf]

theorem writeLine_eventsLead (l : Line) (v : Bool) (s : State) : EventsLead s (writeLine l v s) := by
  cases v
  · exact clrLine_eventsLead l s
  · exact setLine_eventsLead l s

theorem sample_eventsLead (s : State) : EventsLead s (sample s).2 :=
  ⟨[.rd (tdoLevel s)], by simp [sample_eq], by simp [sample_eq, watchAll, watch, viewOf, wiresOf]⟩

theorem perform_eventsLead (m : MicroStep) (s : State) : EventsLead s (perform m s) := by
  cases m with
  | setLine l => exact setLine_eventsLead l s
  | clrLine l => exact clrLine_eventsLead l s
  | driveBit i => exact writeLine_eventsLead .tdi _ s
  | restoreTclk => exact writeLine_eventsLead .tdi _ s
  | scanTdo | sampleBit => exact (sample_eventsLead s).trans (.of_eq rfl rfl)
  | delayUs n => exact ⟨[.waitUs n], rfl, rfl⟩
  | delayMs n => exact ⟨[.waitMs n], rfl, rfl⟩
  | saveTclk | loadShift _ _ | countBit | storeResult => exact .of_eq rfl rfl

theorem performAll_eventsLead (ms : List MicroStep) (s : State) : EventsLead s (performAll ms s) := by
  induction ms generalizing s with
  | nil => exact .of_eq rfl rfl
  | cons m ms ih => exact (perform_eventsLead m s).trans (ih (perform m s))

theorem advanceBy_eventsLead (k : Nat) (s : State) : EventsLead s (advanceBy k s) :=
  (performAll_eventsLead (s.micro.take k) s).trans (.of_eq rfl rfl)

/-- Of the host's moves only the reset input shows in the block's view by itself; no move makes a pin event by itself. -/
theorem Moved.eventsLead {s u : State} (h : Moved s u) (hr : notReset s.hostQueue.head? = true) : EventsLead s u := by
  cases h with
  | reset e rest hq => simp [hq, notReset] at hr
  | none | read | ignored | refused | accepted => exact .of_eq rfl rfl

theorem step_eventsLead {s t : State} (h : step s = .next t) (hr : notReset s.hostQueue.head? = true) :
    EventsLead s t := by
  obtain ⟨u, k, hu, rfl⟩ := step_cases h
  exact (hu.eventsLead hr).trans (advanceBy_eventsLead k u)

/-- The events that were added are the new ones. -/
theorem newEvents_of_eventsLead {s t : State} (h : EventsLead s t) :
    t.events = s.events ++ newEvents s t ∧ watchAll (viewOf s) (newEvents s t) = viewOf t := by
  obtain ⟨es, hes, hw⟩ := h
  have hnew : newEvents s t = es := by simp [newEvents, hes]
  exact hnew ▸ ⟨hes, hw⟩

/-- Without a `Set(TCK)` there is no rising edge, and a TAP controller stays in its state. -/
theorem watchAll_tap_of_no_set_tck (v : TapView) {es : List PinEvent} (h : .set .tck ∉ es) :
    (watchAll v es).tap = v.tap := by
  induction es generalizing v with
  | nil => rfl
  | cons e es ih =>
    obtain ⟨he, hes⟩ := not_or.mp (mt List.mem_cons.mpr h)
    rw [watchAll, ih _ hes]
    simp [watch, isRise, Ne.symm he]

theorem perform_tap (m : MicroStep) (s : State) :
    (perform m s).tap = if m = .setLine .tck ∧ s.outTck = false then tapNext s.tap s.outTms else s.tap := by
  cases m with
  | setLine l => cases l <;> cases h : s.outTck <;> simp [perform, h]
  | clrLine l => cases l <;> simp [perform]
  | driveBit i => simp [perform, driveBit]
  | restoreTclk => simp [perform, restoreTclk]
  | scanTdo => simp [perform, sampleToResult, sample_eq]
  | sampleBit => simp [perform, sampleBit, sample_eq]
  | delayUs _ | delayMs _ | saveTclk | loadShift _ _ | countBit | storeResult => simp [perform]

/-- Settles O8: by micro-step, and for a step by what a TAP controller sees of its events. -/
theorem onlyARisingTckMovesTap : Obligations.OnlyARisingTckMovesTap := by
  refine ⟨perform_tap, fun i s => by rw [exec_eq, runCommand_eq], fun s t h hr hset => ?_⟩
  obtain ⟨-, hview⟩ := newEvents_of_eventsLead (step_eventsLead h hr)
  calc t.tap = (watchAll (viewOf s) (newEvents s t)).tap := by rw [hview]; rfl
    _ = s.tap := watchAll_tap_of_no_set_tck _ hset

end Sys2Proof.Machine
end

section
/-! What a step does with each move of the host, and the three host registers (spec/10_state.md R34, R35, R37), reset (R39). -/

namespace Sys2Proof.Machine

/-- A step with a move to come is that move. -/
theorem step_hostAct (s : State) (e : Option Nat) (a : HostAction) (rest : List HostMove) :
    step { s with hostQueue := ⟨e, a⟩ :: rest } = hostAct a { s with hostQueue := rest } := rfl

theorem step_read {o : Int} (ho : hostAccessOk o 32 = true) (s : State) (e : Option Nat) (rest : List HostMove) :
    step { s with hostQueue := ⟨e, .read o 32⟩ :: rest } =
      .next (workOn { s with hostQueue := rest, hostReads := s.hostReads ++ [readHostReg o s] }) := by
  rw [step_hostAct, hostAct, if_pos ho]
  rfl

theorem step_write_ignored {o : Int} (ho : hostAccessOk o 32 = true) (hne : o ≠ cmdOffset) (s : State) (e : Option Nat)
    (w : Word) (rest : List HostMove) :
    step { s with hostQueue := ⟨e, .write o 32 w⟩ :: rest } = .next (workOn { s with hostQueue := rest }) := by
  rw [step_hostAct, hostAct, if_pos ho, if_neg hne]

/-- A word that arrives while the block is busy, or that does not decode, only sets `err` (R161, R162). -/
theorem step_refused_word {s : State} {w : Word} (why : s.busy = true ∨ ∃ c, decode w = .error c) (e : Option Nat)
    (rest : List HostMove) :
    step { s with hostQueue := ⟨e, .write 0x0 32 w⟩ :: rest } =
      .next (workOn { s with hostQueue := rest, err := true }) := by
  change writeCmd w { s with hostQueue := rest } = _
  cases hb : s.busy with
  | true => simp [writeCmd, refuseWord, setErr]
  | false =>
    obtain ⟨c, hc⟩ := why.resolve_left (by simp [hb])
    simp [writeCmd, hc, refuseWord, setErr]

/-- A legal word that arrives while the block is not busy starts its command (R34). -/
theorem step_legal_word {s : State} {w : Word} {i : Instr} (hb : s.busy = false) (hd : decode w = .ok i) (e : Option Nat)
    (rest : List HostMove) :
    step { s with hostQueue := ⟨e, .write 0x0 32 w⟩ :: rest } = startCommand i { s with hostQueue := rest } := by
  change writeCmd w { s with hostQueue := rest } = _
  simp [writeCmd, hb, hd]

/-- Settles O42, clause by clause from what a step does with a legal word, with a refused word and with a read. -/
theorem cmdAcceptsRefusesAndReadsZero : Obligations.CmdAcceptsRefusesAndReadsZero := by
  refine ⟨fun s w i hidle hd => ?legal, fun s w c hidle hd => ?illegal, fun s w hb => step_refused_word (.inl hb) none [],
    fun s e rest => step_read rfl s e rest, fun _ => workOn_idle, fun s ms => accept_busy ms s, ⟨rfl, rfl⟩⟩
  case legal =>
    obtain ⟨hb, -⟩ := hidle
    have hrun := exec_eq i { s with hostQueue := [] }
    exact ⟨_, (step_legal_word hb hd none []).trans hrun, hrun, by rw [runCommand_eq]⟩
  case illegal =>
    have hidle' : Idle { s with hostQueue := [], err := true } := hidle
    rw [step_refused_word (.inr ⟨c, hd⟩), workOn_idle hidle']

/-- Settles O43: the two halves of the word, and what a step does with a read and with an ignored write. -/
theorem resultRegisterReads : Obligations.ResultRegisterReads :=
  ⟨fun _ => ⟨BitVec.extractLsb'_append_eq_right, BitVec.extractLsb'_append_eq_left⟩,
    fun s e w rest => ⟨step_read rfl s e rest, step_write_ignored rfl (by decide) s e w rest⟩, fun _ => workOn_idle⟩

/-- The layout of `STATUS` bit by bit (R37). -/
def statusBit (s : State) : Nat → Bool
  | 0 => s.busy
  | 1 => s.err
  | 2 | 3 => false
  | 4 => (tapCode s.tap).getLsbD 0
  | 5 => (tapCode s.tap).getLsbD 1
  | 6 => (tapCode s.tap).getLsbD 2
  | 7 => (tapCode s.tap).getLsbD 3
  | 8 => s.tclkLatch
  | 9 => s.outTms
  | 10 => s.outTdi
  | 11 => s.outTck
  | 12 => s.outRst
  | 13 => s.outTst
  | _ + 14 => false

theorem statusWord_getLsbD (s : State) (k : Nat) : (statusWord s).getLsbD k = statusBit s k := by
  simp only [statusWord, BitVec.getLsbD_append]
  by_cases hk : k < 14
  · interval_cases k <;> simp [statusBit]
  · obtain ⟨n, rfl⟩ := Nat.exists_eq_add_of_le' (Nat.le_of_not_lt hk)
    simp [statusBit]

/-- A field of `STATUS` is `x` when the layout gives the bits of `x` there. -/
theorem statusWord_field {s : State} {n len : Nat} {x : BitVec len} (h : ∀ i < len, statusBit s (n + i) = x.getLsbD i) :
    (statusWord s).extractLsb' n len = x := by
  refine BitVec.eq_of_getLsbD_eq fun i hi => ?_
  rw [BitVec.getLsbD_extractLsb', statusWord_getLsbD, h i hi]
  simp [hi]

/-- Settles O44: every bit and field is read off the layout. -/
theorem statusRegisterLayout : Obligations.StatusRegisterLayout := by
  refine ⟨fun s => ?_, fun s e w rest => ⟨step_read rfl s e rest, step_write_ignored rfl (by decide) s e w rest⟩,
    fun _ => workOn_idle⟩
  have bit := statusWord_getLsbD s
  refine ⟨bit 0, bit 1, statusWord_field ?reserved, statusWord_field ?tap, bit 8, bit 9, bit 10, bit 11, bit 12, bit 13,
    statusWord_field ?high, statusWord_field ?reset⟩
  all_goals
    intro i hi
    interval_cases i <;> rfl

/-- Settles O49: after the reset input the block is idle, so it stays as the reset event left it. -/
theorem resetValues : Obligations.ResetValues := by
  refine ⟨⟨rfl, rfl, rfl, rfl, rfl⟩, fun s e rest => ?_⟩
  have hidle : Idle (resetEvent { s with hostQueue := rest }) := ⟨rfl, rfl⟩
  refine ⟨resetEvent { s with hostQueue := rest }, ?_, rfl, rfl, rfl, rfl, rfl⟩
  rw [step_hostAct, hostAct, workOn_idle hidle]

end Sys2Proof.Machine
end

section
/-! The words that match a row, by their fields, and the five classes of the others (spec/30_encoding.md R72 to R74). -/

namespace Sys2Proof

/-- R72: a word is illegal when no row matches it. -/
theorem decode_error_iff (w : Word) :
    (∃ c, decode w = .error c) ↔ ∀ r ∈ opcodeRows, w &&& r.mask ≠ r.value := by
  have find_none : opcodeRows.find? (fun r => r.matchesWord w) = none ↔ ∀ r ∈ opcodeRows, w &&& r.mask ≠ r.value := by
    simp [OpcodeRow.matchesWord]
  rw [← find_none]
  unfold decode
  cases opcodeRows.find? (fun r => r.matchesWord w) <;> simp

/-- The values of `op` whose operation has a 16-bit operand and no format: `DELAY_US`, `DELAY_MS`, `DR_SHIFT16` (R73). -/
def halfOperandOps : List Octet := [0x30#8, 0x31#8, 0x41#8]

/-- The legal words by their fields, one clause for each way R73 lays out a row. -/
def LegalByFields (w : Word) : Prop :=
  (opField w ∈ operandlessOps ∧ fmtField w = 0#8 ∧ immField w = 0#16) ∨
  (opField w ∈ halfOperandOps ∧ fmtField w = 0#8) ∨
  (opField w = 0x40#8 ∧ (fmtField w = 0x08#8 ∧ w.extractLsb' 8 8 = 0#8 ∨ fmtField w = 0x10#8)) ∨
  (opField w = 0x42#8 ∧ fmtField w = 0#8 ∧ w.extractLsb' 8 8 = 0#8)

/-- A byte that is held at 0 by the mask of an eight-bit operand (R72). -/
theorem append_zero_eq_zero_iff (b : Octet) : b ++ 0#8 = 0#16 ↔ b = 0#8 := by
  refine ⟨fun h => ?_, fun h => by rw [h]; rfl⟩
  calc b = (b ++ 0#8).extractLsb' 8 8 := BitVec.extractLsb'_append_eq_left.symm
    _ = 0#8 := by rw [h]; rfl

/-- R72, R73: some row matches a word exactly when its fields are laid out as that row's; each row's test is turned into fields, and the
rows of one layout are gathered under their values of `op`. -/
theorem matches_some_row_iff (w : Word) : (∃ r ∈ opcodeRows, w &&& r.mask = r.value) ↔ LegalByFields w := by
  simp only [opcodeRows, lineRows, otherRows, List.cons_append, List.nil_append, List.exists_mem_cons_iff,
    List.not_mem_nil, false_and, exists_false, or_false, matches_all_iff, matches_high16_iff, matches_high24_iff]
  simp only [LegalByFields, operandlessOps, halfOperandOps, List.mem_cons, List.not_mem_nil, or_false, opField, fmtField,
    immField, BitVec.reduceExtractLsb', append_zero_eq_zero_iff]
  grind

/-- The known values of `op` fall into four groups, by the operand and the format they have. -/
theorem mem_knownOps_iff (op : Octet) :
    op ∈ knownOps ↔ op ∈ operandlessOps ∨ op ∈ halfOperandOps ∨ op = 0x40#8 ∨ op = 0x42#8 := by
  simp only [knownOps, operandlessOps, halfOperandOps, List.mem_cons, List.not_mem_nil, or_false]
  tauto

/-! The four groups of `op` have no value in common. -/

theorem operandlessOps_disjoint : ∀ op ∈ operandlessOps, op ∉ halfOperandOps ∧ op ≠ 0x40#8 ∧ op ≠ 0x42#8 := by decide

theorem halfOperandOps_disjoint : ∀ op ∈ halfOperandOps, op ∉ operandlessOps ∧ op ≠ 0x40#8 ∧ op ≠ 0x42#8 := by decide

/-- R74: a word is outside the five classes exactly when its fields are those of a row. -/
theorem illegalByFields_iff_not_legalByFields (w : Word) : Machine.IllegalByFields w ↔ ¬ LegalByFields w := by
  rw [Machine.IllegalByFields, LegalByFields, mem_knownOps_iff]
  by_cases hknown : opField w ∈ operandlessOps ∨ opField w ∈ halfOperandOps ∨ opField w = 0x40#8 ∨ opField w = 0x42#8
  case neg =>
    simp only [not_or] at hknown
    simp [hknown]
  case pos =>
    obtain hop | hop | hop | hop := hknown
    · obtain ⟨hhalf, h40, h42⟩ := operandlessOps_disjoint _ hop
      simp [hop, hhalf, h40, h42, imp_iff_not_or]
    · obtain ⟨hless, h40, h42⟩ := halfOperandOps_disjoint _ hop
      simp [hop, hless, h40, h42]
    · by_cases hfmt : fmtField w = 0x08#8 <;> simp [hop, hfmt, operandlessOps, halfOperandOps]
    · simp [hop, operandlessOps, halfOperandOps, imp_iff_not_or]

/-- R74: the decoder refuses the words of the five classes and no others. -/
theorem decode_error_iff_illegalByFields (w : Word) : (∃ c, decode w = .error c) ↔ Machine.IllegalByFields w := by
  rw [decode_error_iff, illegalByFields_iff_not_legalByFields, ← matches_some_row_iff]
  simp only [not_exists, not_and, ne_eq]

end Sys2Proof

namespace Sys2Proof.Machine

/-- Settles O4: the rows' tests and the five classes, both by fields; an idle block that refuses a word stays idle. -/
theorem illegalWordsAreTheFiveClasses : Obligations.IllegalWordsAreTheFiveClasses := by
  refine ⟨decode_error_iff_illegalByFields, fun w s e rest hillegal hidle => ?_⟩
  have hidle' : Idle { s with hostQueue := rest, err := true } := hidle
  rw [step_refused_word (.inr ((decode_error_iff_illegalByFields w).mpr hillegal)), workOn_idle hidle']

end Sys2Proof.Machine
end

section
/-! The set and clear commands, the pulse and the sample (spec/40_line_primitives.md R92 to R104, R108): a command that is one
micro-step is the effect of that micro-step, and commands in a row are their micro-steps in a row. -/

namespace Sys2Proof.Machine

theorem exec_singleStep {i : Instr} {m : MicroStep} (h : commandSteps i = [m]) (s : State) :
    exec i s = .next { perform m s with busy := false, micro := [] } := by
  rw [exec_eq, runCommand_eq, h, performAll_cons, performAll_nil]

theorem exec_clrLine {i : Instr} {l : Line} (h : commandSteps i = [.clrLine l]) (s : State) :
    exec i s = .next { clrLine l s with busy := false, micro := [] } :=
  exec_singleStep h s

theorem exec_setLine {i : Instr} {l : Line} (h : commandSteps i = [.setLine l]) (s : State) :
    exec i s = .next { setLine l s with busy := false, micro := [] } :=
  exec_singleStep h s

/-- Settles O11: each command is one write of TMS. -/
theorem tmsCommandsWriteTms : Obligations.TmsCommandsWriteTms := by
  refine ⟨by decide, by decide, fun s => ⟨?clr, ?set⟩⟩
  case clr => rw [exec_clrLine (l := .tms) rfl, clrLine_tms]
  case set => rw [exec_setLine (l := .tms) rfl, setLine_tms]

/-- Settles O12: each command is one write of TDI, the line that carries TCLK. -/
theorem tdiCommandsWriteTdiAndTclk : Obligations.TdiCommandsWriteTdiAndTclk := by
  refine ⟨by decide, by decide, level_tdi, fun s => ⟨?clr, ?set⟩⟩
  case clr => rw [exec_clrLine (l := .tdi) rfl, clrLine_tdi]
  case set => rw [exec_setLine (l := .tdi) rfl, setLine_tdi]

/-- Settles O13: each command is one write of TCK; setting it is an edge only when it was low. -/
theorem tckCommandsMoveTapOnTheRisingEdge : Obligations.TckCommandsMoveTapOnTheRisingEdge := by
  refine ⟨by decide, by decide, fun s => ⟨?clr, ?set⟩⟩
  case clr => rw [exec_clrLine (l := .tck) rfl, clrLine_tck]
  case set =>
    rw [exec_setLine (l := .tck) rfl, setLine_tck]
    cases htck : s.outTck <;> simp

/-- Settles O14: the micro-step is the one of the TDI command, so the next state is the one O12 gives. -/
theorem tclkCommandsAreTdiCommands : Obligations.TclkCommandsAreTdiCommands := by
  obtain ⟨-, -, -, tdi⟩ := tdiCommandsWriteTdiAndTclk
  refine ⟨by decide, by decide, fun s => ?_⟩
  obtain ⟨clrTdi, setTdi⟩ := tdi s
  have clrTclk_eq : exec .clrTclk s = exec .clrTdi s := by
    rw [exec_clrLine (l := .tdi) rfl, exec_clrLine (l := .tdi) rfl]
  have setTclk_eq : exec .setTclk s = exec .setTdi s := by
    rw [exec_setLine (l := .tdi) rfl, exec_setLine (l := .tdi) rfl]
  exact ⟨clrTclk_eq.trans clrTdi, setTclk_eq.trans setTdi, clrTclk_eq, setTclk_eq⟩

/-- Settles O15: each command is one write of RST or of TST. -/
theorem rstAndTstCommandsWriteTheirLine : Obligations.RstAndTstCommandsWriteTheirLine := by
  refine ⟨by decide, by decide, by decide, by decide, fun s => ⟨?clrRst, ?setRst, ?clrTst, ?setTst⟩⟩
  case clrRst => rw [exec_clrLine (l := .rst) rfl, clrLine_rst]
  case setRst => rw [exec_setLine (l := .rst) rfl, setLine_rst]
  case clrTst => rw [exec_clrLine (l := .tst) rfl, clrLine_tst]
  case setTst => rw [exec_setLine (l := .tst) rfl, setLine_tst]

/-- That the block is already marked idle decides nothing inside a command, which leaves the mark. -/
theorem performAll_markedIdle (ms : List MicroStep) (s : State) :
    performAll ms { s with busy := false, micro := [] } = { performAll ms s with busy := false, micro := [] } := by
  simpa using performAll_with_flags ms s s.err false []

/-- Commands one after the other are their micro-steps one after the other (R58, R191). -/
theorem execAll_cons_eq (i : Instr) (is : List Instr) (s : State) :
    execAll (i :: is) s =
      .next { performAll ((i :: is).flatMap commandSteps) s with busy := false, micro := [] } := by
  induction is generalizing i s with
  | nil => simp [execAll, exec_eq, runCommand_eq]
  | cons j js ih =>
    calc execAll (i :: j :: js) s
      _ = execAll (j :: js) { performAll (commandSteps i) s with busy := false, micro := [] } := by
        rw [execAll, exec_eq, runCommand_eq]
      _ = .next { performAll ((j :: js).flatMap commandSteps) (performAll (commandSteps i) s) with
            busy := false, micro := [] } := by
        rw [ih, performAll_markedIdle]
      _ = .next { performAll ((i :: j :: js).flatMap commandSteps) s with busy := false, micro := [] } := by
        rw [← performAll_append, List.flatMap_cons (x := i)]

/-- Settles O16: the pulse goes low and then rises, and `CLR_TCK`, `SET_TCK` have its micro-steps. -/
theorem pulseIsOneRisingEdge : Obligations.PulseIsOneRisingEdge := by
  refine ⟨rfl, performAll_pulse, ⟨rfl, fun _ _ => rfl⟩, fun s => ?_⟩
  have steps : [Instr.clrTck, .setTck].flatMap commandSteps = pulse := rfl
  rw [execAll_cons_eq, steps, performAll_pulse]
  rfl

theorem zext16_eq_append (v : Bool) : zext16 v = 0#15 ++ BitVec.ofBool v := by
  cases v <;> rfl

theorem tdoLevel_loopback {s : State} (h : s.tdoSource = .loopback) : tdoLevel s = s.outTdi := by
  simp [tdoLevel, h]

theorem tdoLevel_target_cons {s : State} {v : Bool} {rest : List Bool} (h : s.tdoSource = .target (v :: rest)) :
    tdoLevel s = v := by
  simp [tdoLevel, h]

/-- Settles O17: the sample is the level of TDO; a target that answers 1 and then 0 leaves two results that differ. -/
theorem scanTdoStoresTheSample : Obligations.ScanTdoStoresTheSample := by
  refine ⟨by decide, fun s => ⟨tdoLevel s, ?run, tdoLevel_loopback, fun _ _ => tdoLevel_target_cons⟩, ?differ⟩
  case run => rw [exec_singleStep (m := .scanTdo) rfl, perform, sampleToResult, sample_eq, zext16_eq_append]
  case differ => exact ⟨{ State.reset with tdoSource := .target [true, false] }, _, _, rfl, rfl, by decide⟩

end Sys2Proof.Machine
end

section
/-! The words of the bare shifts (spec/41_shift.md R124, R125): the row of a command's own name is the one that reads it. -/

namespace Sys2Proof

/-- When only the rows of a command's own name match its word, decoding looks that name up and builds from the word. -/
theorem decode_encode_of_oneRow {i : Instr} (hrow : Laws.OneRow.Statement i) (hwf : i.WellFormed) {r : OpcodeRow}
    (hname : opcodeRows.find? (fun r => r.mnemonic == mnemonicOf i) = some r) :
    decode (encode i) = .ok (r.build (encode i)) := by
  have hfind : opcodeRows.find? (fun r => r.matchesWord (encode i)) = some r := by
    rw [← hname]
    refine List.find?_congr fun r hr => ?_
    rw [Bool.eq_iff_iff, beq_iff_eq]
    exact hrow hwf r hr
  rw [decode, hfind]

theorem zero_append_octet (b : Octet) : 0#8 ++ b = b.setWidth 16 := by
  simp [BitVec.setWidth_eq_append]

/-- R124: `0x400800dd`. -/
theorem decode_shift8_word (b : Octet) : decode (0x400800#24 ++ b) = .ok (.shift8 (0#8 ++ b)) := by
  have hwf : (Instr.shift8 (0#8 ++ b)).WellFormed := beq_iff_eq.mpr BitVec.extractLsb'_append_eq_left
  have hword : encode (.shift8 (0#8 ++ b)) = 0x400800#24 ++ b :=
    BitVec.append_assoc' (x₁ := 0x40#8 ++ 0x08#8) (x₂ := 0#8) (x₃ := b)
  have hoperand : immLoField (encode (.shift8 (0#8 ++ b))) = 0#8 ++ b := by
    rw [immLoField, (encode_bytes _).2, operandOf, BitVec.extractLsb'_append_eq_right, zero_append_octet]
  rw [← hword, decode_encode_of_oneRow (Laws.OneRow.shift8 _) hwf (r := otherRows[3]) rfl]
  exact congrArg (Except.ok ∘ Instr.shift8) hoperand

/-- R125: `0x4010dddd`. -/
theorem decode_shift16_word (d : Half) : decode (0x4010#16 ++ d) = .ok (.shift16 d) := by
  have hword : encode (.shift16 d) = 0x4010#16 ++ d := congrArg (· ++ d) (by decide : 0x40#8 ++ 0x10#8 = 0x4010#16)
  have hoperand : immField (encode (.shift16 d)) = d := (encode_fields (.shift16 d)).2.2
  rw [← hword, decode_encode_of_oneRow (Laws.OneRow.shift16 d) rfl (r := otherRows[4]) rfl]
  exact congrArg (Except.ok ∘ Instr.shift16) hoperand

end Sys2Proof
end

section
/-! The pin events of a shift (spec/41_shift.md R122): what they read, how many of a kind they are, and what their edges see. -/

namespace Sys2Proof.Machine

theorem formatBits_eq_succ (f : ShiftFormat) : formatBits f = formatBits f - 1 + 1 := by
  cases f <;> rfl

/-- The events of data bit `i`, sent as `b` and read as `r` (R122 step 3). -/
def bitEvents (i : Nat) (b r : Bool) : List PinEvent :=
  [lineEvent .tdi b] ++ (if i = 0 then [.set .tms] else []) ++ pulseEvents ++ [.rd r]

theorem dataEvents_eq_append (n : Nat) (d : Half) (rds : List Bool) :
    dataEvents (n + 1) d rds = bitEvents n (d.getLsbD n) (rds.headD false) ++ dataEvents n d rds.tail := rfl

/-! What is read (R105, R123). -/

theorem rdValues_bitEvents (i : Nat) (b r : Bool) : rdValues (bitEvents i b r) = [r] := by
  cases i <;> cases b <;> rfl

theorem rdValues_dataEvents {n : Nat} (d : Half) {rds : List Bool} (h : rds.length = n) :
    rdValues (dataEvents n d rds) = rds := by
  induction n generalizing rds with
  | zero => rw [List.length_eq_zero_iff.mp h]; rfl
  | succ n ih =>
    obtain ⟨r, rs, rfl⟩ := List.exists_cons_of_length_eq_add_one h
    rw [dataEvents_eq_append, rdValues_append, rdValues_bitEvents, List.tail_cons, ih (by simpa using h)]
    rfl

/-- The reads of a shift are all made while the data is sent. -/
theorem rdValues_shiftEvents {f : ShiftFormat} (d : Half) (latch : Bool) {rds : List Bool} (h : rds.length = formatBits f) :
    rdValues (shiftEvents f d latch rds) = rds := by
  simp only [shiftEvents, rdValues_append, rdValues_dataEvents d h, rdValues_lineEvent, pulseEvents, rdValues,
    List.append_nil]

/-! That the values read decide no event but the reads themselves (R126). -/

theorem map_eraseRd_bitEvents (i : Nat) (b r : Bool) : (bitEvents i b r).map eraseRd = bitEvents i b false := by
  cases i <;> cases b <;> rfl

theorem map_eraseRd_dataEvents (n : Nat) (d : Half) (rds : List Bool) :
    (dataEvents n d rds).map eraseRd = dataEvents n d [] := by
  induction n generalizing rds with
  | zero => rfl
  | succ n ih =>
    rw [dataEvents_eq_append, List.map_append, map_eraseRd_bitEvents, ih]
    rfl

theorem map_eraseRd_shiftEvents (f : ShiftFormat) (d : Half) (latch : Bool) (rds : List Bool) :
    (shiftEvents f d latch rds).map eraseRd = shiftEvents f d latch [] := by
  cases latch <;> simp [shiftEvents, map_eraseRd_dataEvents, pulseEvents, lineEvent, eraseRd]

/-! How many of a kind there are (R129). A kind is a test `p` that asks neither for the level of TDI nor for the value read. -/

section
variable {p : PinEvent → Bool} (htdi : p (.clr .tdi) = p (.set .tdi)) (hrd : p (.rd true) = p (.rd false))
include htdi hrd

theorem countP_bitEvents (i : Nat) (b r : Bool) :
    (bitEvents i b r).countP p = (bitEvents i true false).countP p := by
  cases b <;> cases r <;> simp [bitEvents, List.countP_append, List.countP_cons, lineEvent, htdi, hrd]

/-- Every data bit is sent alike, but for the write of TMS in the last. -/
theorem countP_dataEvents (n : Nat) (d : Half) (rds : List Bool) :
    (dataEvents (n + 1) d rds).countP p =
      (bitEvents 0 true false).countP p + n * (bitEvents 1 true false).countP p := by
  induction n generalizing rds with
  | zero =>
    rw [dataEvents_eq_append, List.countP_append, countP_bitEvents htdi hrd]
    simp [dataEvents]
  | succ n ih =>
    have hbit : (bitEvents (n + 1) true false).countP p = (bitEvents 1 true false).countP p := rfl
    rw [dataEvents_eq_append, List.countP_append, countP_bitEvents htdi hrd, hbit, ih]
    ring

/-- The whole shift, counted: the last bit, the bits before it, and what comes after the data. -/
theorem countP_shiftEvents (f : ShiftFormat) (d : Half) (latch : Bool) (rds : List Bool) :
    (shiftEvents f d latch rds).countP p =
      (bitEvents 0 true false).countP p + (formatBits f - 1) * (bitEvents 1 true false).countP p +
        ([PinEvent.set .tdi] ++ pulseEvents ++ [PinEvent.clr .tms] ++ pulseEvents).countP p := by
  have hdata := countP_dataEvents htdi hrd (formatBits f - 1) d rds
  rw [← formatBits_eq_succ] at hdata
  have hrestore : [lineEvent .tdi latch].countP p = [PinEvent.set .tdi].countP p := by
    cases latch <;> simp [lineEvent, List.countP_cons, htdi]
  simp only [shiftEvents, List.countP_append, hdata, hrestore, Nat.add_assoc]

end

theorem length_dataEvents (n : Nat) (d : Half) (rds : List Bool) : (dataEvents (n + 1) d rds).length = 4 * (n + 1) + 1 := by
  rw [← List.countP_true, countP_dataEvents rfl rfl]
  simp [bitEvents, pulseEvents]; omega

theorem length_shiftEvents (f : ShiftFormat) (d : Half) (latch : Bool) (rds : List Bool) :
    (shiftEvents f d latch rds).length = 4 * formatBits f + 7 := by
  rw [← List.countP_true, countP_shiftEvents rfl rfl]
  cases f <;> rfl

/-- Without its restore of TDI, which comes after the data, a shift sends the same whatever TCLK was. -/
theorem eraseIdx_shiftEvents (f : ShiftFormat) (d : Half) (latch : Bool) (rds : List Bool) :
    (shiftEvents f d latch rds).eraseIdx (4 * formatBits f + 1) =
      dataEvents (formatBits f) d rds ++ (pulseEvents ++ [.clr .tms] ++ pulseEvents) := by
  have hlen := length_dataEvents (formatBits f - 1) d rds
  rw [← formatBits_eq_succ] at hlen
  simp [shiftEvents, ← hlen, List.append_assoc, List.eraseIdx_append_of_length_le]

/-! What the edges see, and where they lead (R28, R122). -/

theorem edgeLevels_bitEvents (w : Wires) (i : Nat) (b r : Bool) :
    edgeLevels w (bitEvents i b r) = [(if i = 0 then true else w.tms, b)] := by
  cases i <;> cases b <;> rfl

theorem foldl_wireEvent_bitEvents (w : Wires) (i : Nat) (b r : Bool) :
    (bitEvents i b r).foldl wireEvent w = { w with tms := if i = 0 then true else w.tms, tdi := b, tck := true } := by
  cases i <;> cases b <;> rfl

/-- Each edge sees TMS as the walk along the data has it and the bit just sent. -/
theorem edgeLevels_dataEvents (w : Wires) (n : Nat) (d : Half) (rds : List Bool) :
    edgeLevels w (dataEvents n d rds) = (dataTms w.tms n).zip (dataBits n d) := by
  induction n generalizing w rds with
  | zero => rfl
  | succ n ih =>
    have htms : dataTms (if n = 0 then true else w.tms) n = dataTms w.tms n := by cases n <;> rfl
    rw [dataEvents_eq_append, edgeLevels_append, edgeLevels_bitEvents, foldl_wireEvent_bitEvents, ih, htms]
    rfl

/-- The data leaves TMS and TCK high, and TDI at the last bit. -/
theorem foldl_wireEvent_dataEvents (w : Wires) (n : Nat) (d : Half) (rds : List Bool) :
    (dataEvents (n + 1) d rds).foldl wireEvent w = { w with tms := true, tdi := d.getLsbD 0, tck := true } := by
  induction n generalizing w rds with
  | zero => exact foldl_wireEvent_bitEvents w 0 _ _
  | succ n ih => rw [dataEvents_eq_append, List.foldl_append, ih, foldl_wireEvent_bitEvents]

/-- Both trailing edges see TDI restored, the first with TMS still high (R122 steps 4 to 7). -/
theorem edgeLevels_shiftEvents (w : Wires) (f : ShiftFormat) (d : Half) (latch : Bool) (rds : List Bool) :
    edgeLevels w (shiftEvents f d latch rds) =
      (dataTms w.tms (formatBits f)).zip (dataBits (formatBits f) d) ++ [(true, latch), (false, latch)] := by
  have hwires := foldl_wireEvent_dataEvents w (formatBits f - 1) d rds
  rw [← formatBits_eq_succ] at hwires
  simp only [shiftEvents, List.append_assoc, edgeLevels_append w, edgeLevels_dataEvents, hwires]
  cases latch <;> rfl

theorem dataTms_formatBits (tms : Bool) (f : ShiftFormat) :
    dataTms tms (formatBits f) = List.replicate (formatBits f - 1) tms ++ [true] := by
  rw [← dataTms_succ, ← formatBits_eq_succ]

/-- TMS at the edges of a shift. -/
theorem edgeTms_shiftEvents (w : Wires) (f : ShiftFormat) (d : Half) (latch : Bool) (rds : List Bool) :
    (edgeLevels w (shiftEvents f d latch rds)).map Prod.fst =
      List.replicate (formatBits f - 1) w.tms ++ [true, true, false] := by
  have hlen : (dataTms w.tms (formatBits f)).length ≤ (dataBits (formatBits f) d).length := by
    rw [dataTms_formatBits, dataBits_length, List.length_append, List.length_replicate, List.length_singleton,
      ← formatBits_eq_succ]
  rw [edgeLevels_shiftEvents, List.map_append, List.map_fst_zip hlen, dataTms_formatBits, List.append_assoc]
  rfl

theorem length_edgeLevels_shiftEvents (w : Wires) (f : ShiftFormat) (d : Half) (latch : Bool) (rds : List Bool) :
    (edgeLevels w (shiftEvents f d latch rds)).length = formatBits f + 2 := by
  rw [← List.length_map (f := Prod.fst), edgeTms_shiftEvents]
  cases f <;> rfl

/-- The states a TAP comes to along TMS levels, one after each edge (R29). -/
def tapTrail (q : Tap) : List Bool → List Tap
  | [] => []
  | tms :: rest => tapNext q tms :: tapTrail (tapNext q tms) rest

/-- The TAP states after the edges are those TMS leads to. -/
theorem edgeTaps_eq_tapTrail (v : TapView) (es : List PinEvent) :
    edgeTaps v es = tapTrail v.tap ((edgeLevels v.wires es).map Prod.fst) := by
  induction es generalizing v with
  | nil => rfl
  | cons e es ih => cases hrise : isRise v.wires e <;> simp [edgeTaps, edgeLevels, watch, tapTrail, hrise, ih]

/-- A state that an edge keeps is met after each of such edges. -/
theorem tapTrail_replicate_append_of_fixed {q : Tap} {tms : Bool} (h : tapNext q tms = q) (n : Nat) (path : List Bool) :
    tapTrail q (List.replicate n tms ++ path) = List.replicate n q ++ tapTrail q path := by
  induction n with
  | zero => rfl
  | succ n ih => rw [List.replicate_succ, List.replicate_succ, List.cons_append, tapTrail, h, ih, List.cons_append]

end Sys2Proof.Machine
end

section
/-! The value a shift assembles (spec/41_shift.md R122 step 3d, R123): the reads, the first most significant. -/

namespace Sys2Proof.Machine

theorem getLsbD_shiftIn (x : Half) (v : Bool) (j : Nat) :
    (shiftIn x v).getLsbD j = if j = 0 then v else decide (j < 16) && x.getLsbD (j - 1) := by
  cases j <;> simp [shiftIn, zext16]

/-- The last read is bit 0; no bit is lost as long as there are at most 16. -/
theorem getLsbD_assemble {rds : List Bool} (h : rds.length ≤ 16) (j : Nat) :
    (assemble rds).getLsbD j = rds.reverse[j]?.getD false := by
  induction rds using List.reverseRecOn generalizing j with
  | nil => simp [assemble]
  | append_singleton rds v ih =>
    have hlen : rds.length < 16 := by simpa using h
    have hlast : assemble (rds ++ [v]) = shiftIn (assemble rds) v := List.foldl_concat ..
    rw [hlast, getLsbD_shiftIn, ih hlen.le]
    cases j with
    | zero => simp
    | succ j =>
      by_cases hj : j < rds.length
      · simp; omega
      · simp [hj]

/-- R123: bit `length - 1 - k` is the read `k`. -/
theorem getLsbD_assemble_of_read {rds : List Bool} (h : rds.length ≤ 16) {k : Nat} {v : Bool} (hk : rds[k]? = some v) :
    (assemble rds).getLsbD (rds.length - 1 - k) = v := by
  have hlt : k < rds.length := (List.getElem?_eq_some_iff.mp hk).1
  have hback : rds.length - 1 - (rds.length - 1 - k) = k := by omega
  rw [getLsbD_assemble h, List.getElem?_reverse (by omega), hback, hk, Option.getD_some]

/-- R123: the bits above the reads are 0. -/
theorem getLsbD_assemble_of_length_le {rds : List Bool} (h : rds.length ≤ 16) {j : Nat} (hj : rds.length ≤ j) :
    (assemble rds).getLsbD j = false := by
  rw [getLsbD_assemble h, List.getElem?_eq_none (by simpa using hj), Option.getD_none]

theorem reverse_dataBits (n : Nat) (d : Half) : (dataBits n d).reverse = (List.range n).map d.getLsbD := by
  induction n with
  | zero => rfl
  | succ n ih => simp [dataBits, ih, List.range_succ]

/-- The bits of a datum, read back in the order they are sent, are the datum's low bits (R128). -/
theorem getLsbD_assemble_dataBits {n : Nat} (h : n ≤ 16) (d : Half) (j : Nat) :
    (assemble (dataBits n d)).getLsbD j = (decide (j < n) && d.getLsbD j) := by
  rw [getLsbD_assemble (by simpa using h), reverse_dataBits]
  by_cases hj : j < n <;> simp [hj]

end Sys2Proof.Machine
end

section
/-! The bare shifts (spec/41_shift.md R122 to R129): the state a `Shift` leaves, and what follows from it. -/

namespace Sys2Proof.Machine

/-- The state after a command that ends in `Shift(format, data)`, when `s` is the state before that shift (R122). -/
def afterShift (f : ShiftFormat) (d : Half) (s : State) : State :=
  { s with
    outTms := false
    outTck := true
    tclkLatch := s.outTdi
    tap := tapWalk s.tap (List.replicate (formatBits f - 1) s.outTms ++ [true, true, false])
    result := assemble (shiftAnswers f d s).1
    so := d
    si := assemble (shiftAnswers f d s).1
    cnt := 0#5
    events := s.events ++ shiftEvents f d s.outTdi (shiftAnswers f d s).1
    tdoSource := (shiftAnswers f d s).2.1
    draws := (shiftAnswers f d s).2.2
    busy := false
    micro := [] }

theorem afterShift_tap (f : ShiftFormat) (d : Half) (s : State) :
    (afterShift f d s).tap = tapWalk s.tap (List.replicate (formatBits f - 1) s.outTms ++ [true, true, false]) := rfl

theorem exec_endingInShift {i : Instr} {prologue : List MicroStep} {f : ShiftFormat} {d : Half}
    (h : commandSteps i = prologue ++ shiftSteps f d) (s : State) :
    exec i s = .next (afterShift f d (performAll prologue s)) := by
  rw [exec_eq, runCommand_eq, h, performAll_append, performAll_shiftSteps, dataTms_formatBits, List.append_assoc]
  rfl

/-- A bare shift, from any state and for any datum. -/
theorem exec_shiftCommand (f : ShiftFormat) (d : Half) (s : State) :
    exec (shiftCommand f d) s = .next (afterShift f d s) :=
  exec_endingInShift (prologue := []) (by cases f <;> rfl) s

theorem eq_afterShift_of_exec {f : ShiftFormat} {d : Half} {s t : State} (h : exec (shiftCommand f d) s = .next t) :
    t = afterShift f d s :=
  (Host.Outcome.next.inj ((exec_shiftCommand f d s).symm.trans h)).symm

theorem newEvents_of_append {s t : State} {es : List PinEvent} (h : t.events = s.events ++ es) : newEvents s t = es := by
  simp [newEvents, h]

theorem newEvents_afterShift (f : ShiftFormat) (d : Half) (s : State) :
    newEvents s (afterShift f d s) = shiftEvents f d s.outTdi (shiftAnswers f d s).1 :=
  newEvents_of_append rfl

theorem shiftAnswers_length (f : ShiftFormat) (d : Half) (s : State) : (shiftAnswers f d s).1.length = formatBits f := by
  rw [shiftAnswers, takeAnswers_length, dataBits_length]

theorem rdValues_afterShift (f : ShiftFormat) (d : Half) (s : State) :
    rdValues (newEvents s (afterShift f d s)) = (shiftAnswers f d s).1 := by
  rw [newEvents_afterShift, rdValues_shiftEvents d _ (shiftAnswers_length f d s)]

/-- The three counts of a shift's events (R129). -/
theorem shiftEvents_counts (f : ShiftFormat) (d : Half) (s : State) :
    (shiftEvents f d s.outTdi (shiftAnswers f d s).1).length = 4 * formatBits f + 7 ∧
    (edgeLevels (wiresOf s) (shiftEvents f d s.outTdi (shiftAnswers f d s).1)).length = formatBits f + 2 ∧
    (rdValues (shiftEvents f d s.outTdi (shiftAnswers f d s).1)).length = formatBits f :=
  ⟨length_shiftEvents .., length_edgeLevels_shiftEvents ..,
    by rw [rdValues_shiftEvents d _ (shiftAnswers_length f d s), shiftAnswers_length]⟩

/-- Settles O19: the state after a shift, with eight bits. -/
theorem shift8RunsTheShift : Obligations.Shift8RunsTheShift :=
  ⟨decode_shift8_word, fun d s => ⟨exec_shiftCommand .eight d s, shiftEvents_counts .eight d s⟩⟩

/-- Settles O20: the state after a shift, with sixteen bits. -/
theorem shift16RunsTheShift : Obligations.Shift16RunsTheShift :=
  ⟨decode_shift16_word, fun d s => ⟨exec_shiftCommand .sixteen d s, shiftEvents_counts .sixteen d s⟩⟩

/-- Settles O21: `si` and `result` both hold what the reads assemble to. -/
theorem resultIsTheReadsMostSignificantFirst : Obligations.ResultIsTheReadsMostSignificantFirst := by
  intro f d s t h
  obtain rfl := eq_afterShift_of_exec h
  have hlen := shiftAnswers_length f d s
  have hmost : (shiftAnswers f d s).1.length ≤ 16 := by rw [hlen]; cases f <;> decide
  rw [rdValues_afterShift, ← hlen]
  refine ⟨rfl, fun k v hk => ?read, fun j hj => ?above⟩
  case read => exact ⟨getLsbD_assemble_of_read hmost hk, getLsbD_assemble_of_read hmost hk⟩
  case above => exact ⟨getLsbD_assemble_of_length_le hmost hj, getLsbD_assemble_of_length_le hmost hj⟩

/-- A command that contains a `Shift` ends in it, and what comes before leaves TDI alone (R140, R141). -/
theorem exec_of_containsShift {i : Instr} (h : containsShift i = true) (s : State) :
    ∃ f d u, exec i s = .next (afterShift f d u) ∧ u.outTdi = s.outTdi ∧ EventsLead s u := by
  have ofPrologue (prologue : List MicroStep) {f d} (hsteps : commandSteps i = prologue ++ shiftSteps f d)
      (htdi : (performAll prologue s).outTdi = s.outTdi) :
      ∃ f d u, exec i s = .next (afterShift f d u) ∧ u.outTdi = s.outTdi ∧ EventsLead s u :=
    ⟨f, d, _, exec_endingInShift hsteps s, htdi, performAll_eventsLead prologue s⟩
  cases i with
  | shift8 d => exact ofPrologue [] rfl rfl
  | shift16 d => exact ofPrologue [] rfl rfl
  | drShift16 d => exact ofPrologue drPrologue rfl (by simp [drPrologue, pulse, perform])
  | irShift d => exact ofPrologue irPrologue rfl (by simp [irPrologue, pulse, perform])
  | _ => simp [containsShift] at h

/-- The TAP states of a bare shift that starts with TMS low in a state TMS low keeps: the data bits but the last stay there. -/
theorem edgeTaps_afterShift {s : State} (htms : s.outTms = false) (hstay : tapNext s.tap false = s.tap) (f : ShiftFormat)
    (d : Half) :
    edgeTaps (viewOf s) (newEvents s (afterShift f d s)) =
      List.replicate (formatBits f - 1) s.tap ++ tapTrail s.tap [true, true, false] := by
  have hlow : (viewOf s).wires.tms = false := htms
  rw [newEvents_afterShift, edgeTaps_eq_tapTrail, edgeTms_shiftEvents, hlow]
  exact tapTrail_replicate_append_of_fixed hstay ..

/-- Settles O22: the edges after the restore see TDI as saved; the TAP states by what TMS is at each edge. -/
theorem tclkIsPreservedAcrossEveryShift : Obligations.TclkIsPreservedAcrossEveryShift := by
  refine ⟨fun i s t hi h => ?restored, fun f d s t htms h => ?states⟩
  case restored =>
    obtain ⟨f, d, u, hexec, htdi, es, hes, -⟩ := exec_of_containsShift hi s
    obtain rfl : afterShift f d u = t := Host.Outcome.next.inj (hexec.symm.trans h)
    have hnew : newEvents s (afterShift f d u) = es ++ shiftEvents f d u.outTdi (shiftAnswers f d u).1 :=
      newEvents_of_append (by rw [← List.append_assoc, ← hes]; rfl)
    refine ⟨htdi, ?_⟩
    rw [hnew, edgeLevels_append, edgeLevels_shiftEvents, htdi, ← List.append_assoc]
    exact ⟨_, _, _, rfl⟩
  case states =>
    obtain rfl := eq_afterShift_of_exec h
    refine ⟨fun htap => ?_, fun htap => ?_⟩ <;>
    · rw [edgeTaps_afterShift htms (by rw [htap]; rfl), htap]
      rfl

theorem shiftAnswers_loopback {s : State} (h : s.tdoSource = .loopback) (f : ShiftFormat) (d : Half) :
    (shiftAnswers f d s).1 = dataBits (formatBits f) d := by
  rw [shiftAnswers, h, takeAnswers_loopback]

/-- R128: in the loopback rig the result is the bits that are sent, each back in its place. -/
theorem result_afterShift_loopback {s : State} (h : s.tdoSource = .loopback) (f : ShiftFormat) (d : Half) :
    (afterShift f d s).result = (d.setWidth (formatBits f)).setWidth 16 := by
  have hmost : formatBits f ≤ 16 := by cases f <;> decide
  refine BitVec.eq_of_getLsbD_eq fun j hj => ?_
  calc (afterShift f d s).result.getLsbD j
    _ = (assemble (dataBits (formatBits f) d)).getLsbD j := by rw [← shiftAnswers_loopback h]; rfl
    _ = (decide (j < formatBits f) && d.getLsbD j) := getLsbD_assemble_dataBits hmost d j
    _ = ((d.setWidth (formatBits f)).setWidth 16).getLsbD j := by simp [hj]

/-- Settles O23: sixteen bits are the datum, eight its low byte. -/
theorem loopbackReturnsTheDatum : Obligations.LoopbackReturnsTheDatum := by
  intro x s hloop
  refine ⟨tdoLevel_loopback hloop, ⟨_, exec_shiftCommand .sixteen x s, ?sixteen⟩,
    ⟨_, exec_shiftCommand .eight x s, ?eight⟩⟩ <;>
    rw [result_afterShift_loopback hloop]
  case sixteen => exact (BitVec.setWidth_eq _).trans (BitVec.setWidth_eq x)
  case eight => rw [zero_append_octet, ← BitVec.setWidth_eq_extractLsb' (by decide)]; rfl

/-- An event a shift can make: a write of TMS, TDI or TCK, or a read (R129). -/
def isShiftEvent : PinEvent → Bool
  | .set l | .clr l => l ∉ [Line.rst, .tst]
  | .rd _ => true
  | .waitUs _ | .waitMs _ => false

theorem isShiftEvent_of_mem {f : ShiftFormat} {d : Half} {latch : Bool} {rds : List Bool} {e : PinEvent}
    (h : e ∈ shiftEvents f d latch rds) : isShiftEvent e = true := by
  have hall : (shiftEvents f d latch rds).countP isShiftEvent = (shiftEvents f d latch rds).length := by
    rw [countP_shiftEvents rfl rfl, length_shiftEvents]
    cases f <;> rfl
  exact List.countP_eq_length.mp hall e h

/-- Settles O24: each count is that of a bit so many times, and of what is sent once. -/
theorem shiftEventCounts : Obligations.ShiftEventCounts := by
  intro f d s t h
  obtain rfl := eq_afterShift_of_exec h
  obtain ⟨hlength, hedges, hreads⟩ := shiftEvents_counts f d s
  rw [newEvents_afterShift]
  refine ⟨hlength, hreads, hedges, ?tck, ?tdi, ?tms, fun e he => ?kinds⟩
  case tck => rw [countP_shiftEvents rfl rfl]; cases f <;> rfl
  case tdi => rw [countP_shiftEvents rfl rfl]; cases f <;> rfl
  case tms => rw [countP_shiftEvents rfl rfl]; cases f <;> rfl
  case kinds =>
    refine ⟨fun n => ⟨?_, ?_⟩, ?_, ?_, ?_, ?_⟩ <;>
    · rintro rfl
      simpa [isShiftEvent] using isShiftEvent_of_mem he

/-- Settles O25: the latch shows in the restore only and the answers in the reads only; `tap` follows TMS alone. -/
theorem shiftChecksNothing : Obligations.ShiftChecksNothing := by
  refine ⟨fun f d s s' t t' h h' => ?events, fun f d s => ⟨_, exec_shiftCommand f d s, rfl⟩,
    fun f d s t htms h hstart => ?intended, fun d s t htms h => ?examples⟩
  case events =>
    obtain rfl := eq_afterShift_of_exec h
    obtain rfl := eq_afterShift_of_exec h'
    refine ⟨?_, rfl⟩
    simp only [newEvents_afterShift, map_eraseRd_shiftEvents, eraseIdx_shiftEvents]
  case intended =>
    obtain rfl := eq_afterShift_of_exec h
    obtain htap | htap := hstart <;>
    · rw [afterShift_tap, htms, htap, tapWalk_append, tapWalk_replicate_of_fixed rfl]
      rfl
  case examples =>
    obtain rfl := eq_afterShift_of_exec (f := .eight) h
    refine ⟨fun htap => ?_, fun htap => ?_⟩ <;>
    · rw [afterShift_tap, htms, htap]
      rfl

end Sys2Proof.Machine
end

section
/-! The words of the scans (spec/42_scan.md R140, R141). -/

namespace Sys2Proof

/-- The low byte of a word is the operand, when that is an octet (R71). -/
theorem immLoField_encode_of_octet {i : Instr} {b : Octet} (h : operandOf i = 0#8 ++ b) :
    immLoField (encode i) = 0#8 ++ b := by
  rw [immLoField, (encode_bytes i).2, h, BitVec.extractLsb'_append_eq_right, zero_append_octet]

/-- R140: `0x4100dddd`. -/
theorem decode_drShift16_word (d : Half) : decode (0x4100#16 ++ d) = .ok (.drShift16 d) := by
  have hword : encode (.drShift16 d) = 0x4100#16 ++ d := congrArg (· ++ d) (by decide : 0x41#8 ++ 0x00#8 = 0x4100#16)
  rw [← hword, decode_encode_of_oneRow (Laws.OneRow.drShift16 d) rfl (r := otherRows[5]) rfl]
  exact congrArg (Except.ok ∘ Instr.drShift16) (encode_fields (.drShift16 d)).2.2

/-- R141: `0x420000ii`. -/
theorem decode_irShift_word (b : Octet) : decode (0x420000#24 ++ b) = .ok (.irShift (0#8 ++ b)) := by
  have hwf : (Instr.irShift (0#8 ++ b)).WellFormed := beq_iff_eq.mpr BitVec.extractLsb'_append_eq_left
  have hword : encode (.irShift (0#8 ++ b)) = 0x420000#24 ++ b :=
    BitVec.append_assoc' (x₁ := 0x42#8 ++ 0x00#8) (x₂ := 0#8) (x₃ := b)
  rw [← hword, decode_encode_of_oneRow (Laws.OneRow.irShift _) hwf (r := otherRows[6]) rfl]
  exact congrArg (Except.ok ∘ Instr.irShift) (immLoField_encode_of_octet rfl)

end Sys2Proof
end

section
/-! The scans (spec/42_scan.md R140 to R142): a prologue that walks `tap` and leaves TMS low, and the `Shift` after it. -/

namespace Sys2Proof.Machine

/-- The state after a prologue whose edges see TMS as in `path` and whose events are `es`. -/
def afterPrologue (path : List Bool) (es : List PinEvent) (s : State) : State :=
  { s with outTms := false, outTck := true, tap := tapWalk s.tap path, events := s.events ++ es }

/-- The micro-steps `ms` are a scan's prologue: from any state they only walk `tap` along `path`, with the events `es`, and leave TMS
low and TCK high; a target sees the same from the events, none of which is a read. -/
structure IsPrologue (ms : List MicroStep) (path : List Bool) (es : List PinEvent) : Prop where
  run : ∀ s : State, performAll ms s = afterPrologue path es s
  edgeTms : ∀ w : Wires, (edgeLevels w es).map Prod.fst = path
  tmsLow : ∀ w : Wires, (es.foldl wireEvent w).tms = false
  noReads : rdValues es = []

/-- R140 steps 1 to 5. -/
theorem isPrologue_drPrologue : IsPrologue drPrologue [true, false, false] drPrologueEvents where
  run s := by
    simp [drPrologue, performAll_append, performAll_pulse, perform, afterPrologue, drPrologueEvents, tapWalk]
  edgeTms _ := rfl
  tmsLow _ := rfl
  noReads := rfl

/-- R141 steps 1 to 6. -/
theorem isPrologue_irPrologue : IsPrologue irPrologue [true, true, false, false] irPrologueEvents where
  run s := by
    simp [irPrologue, performAll_append, performAll_pulse, perform, afterPrologue, irPrologueEvents, tapWalk]
  edgeTms _ := rfl
  tmsLow _ := rfl
  noReads := rfl

section
variable {ms : List MicroStep} {path : List Bool} {es : List PinEvent} (hpro : IsPrologue ms path es)
include hpro

theorem exec_scan {i : Instr} {f : ShiftFormat} {d : Half} (h : commandSteps i = ms ++ shiftSteps f d) (s : State) :
    exec i s = .next (afterShift f d (afterPrologue path es s)) := by
  rw [exec_endingInShift h, hpro.run]

/-- TMS at the edges of a scan: the prologue's path, and then the shift's, which starts with TMS low. -/
theorem edgeTms_scan (w : Wires) (f : ShiftFormat) (d : Half) (latch : Bool) (rds : List Bool) :
    (edgeLevels w (es ++ shiftEvents f d latch rds)).map Prod.fst =
      path ++ (List.replicate (formatBits f - 1) false ++ [true, true, false]) := by
  rw [edgeLevels_append, List.map_append, hpro.edgeTms, edgeTms_shiftEvents, hpro.tmsLow]

/-- The three counts of a scan's events: those of the prologue and of the shift, and all reads are the shift's. -/
theorem scan_counts (f : ShiftFormat) (d : Half) (s : State) :
    (es ++ shiftEvents f d s.outTdi (shiftAnswers f d s).1).length = es.length + (4 * formatBits f + 7) ∧
    (edgeLevels (wiresOf s) (es ++ shiftEvents f d s.outTdi (shiftAnswers f d s).1)).length =
      path.length + (formatBits f + 2) ∧
    (rdValues (es ++ shiftEvents f d s.outTdi (shiftAnswers f d s).1)).length = formatBits f := by
  obtain ⟨hlength, -, hreads⟩ := shiftEvents_counts f d s
  refine ⟨?length, ?edges, ?reads⟩
  case length => rw [List.length_append, hlength]
  case edges =>
    rw [edgeLevels_append, List.length_append, length_edgeLevels_shiftEvents, ← hpro.edgeTms (wiresOf s), List.length_map]
  case reads => rw [rdValues_append, hpro.noReads, List.nil_append, hreads]

end

theorem exec_drShift16 (d : Half) (s : State) :
    exec (.drShift16 d) s = .next (afterShift .sixteen d (afterPrologue [true, false, false] drPrologueEvents s)) :=
  exec_scan isPrologue_drPrologue rfl s

theorem exec_irShift (d : Half) (s : State) :
    exec (.irShift d) s = .next (afterShift .eight d (afterPrologue [true, true, false, false] irPrologueEvents s)) :=
  exec_scan isPrologue_irPrologue rfl s

theorem eq_of_exec_drShift16 {d : Half} {s t : State} (h : exec (.drShift16 d) s = .next t) :
    t = afterShift .sixteen d (afterPrologue [true, false, false] drPrologueEvents s) :=
  (Host.Outcome.next.inj ((exec_drShift16 d s).symm.trans h)).symm

theorem eq_of_exec_irShift {d : Half} {s t : State} (h : exec (.irShift d) s = .next t) :
    t = afterShift .eight d (afterPrologue [true, true, false, false] irPrologueEvents s) :=
  (Host.Outcome.next.inj ((exec_irShift d s).symm.trans h)).symm

section
variable (f : ShiftFormat) (d : Half) (path : List Bool) (es : List PinEvent) (s : State)

/-- The TAP copy goes on from where the prologue left it, with TMS low. -/
theorem afterShift_afterPrologue_tap :
    (afterShift f d (afterPrologue path es s)).tap =
      tapWalk s.tap (path ++ (List.replicate (formatBits f - 1) false ++ [true, true, false])) := by
  rw [afterShift_tap, tapWalk_append s.tap path]
  rfl

/-- The new events of a scan: no answer is taken before its shift, and TDI is still as it was. -/
theorem newEvents_afterShift_afterPrologue :
    newEvents s (afterShift f d (afterPrologue path es s)) =
      es ++ shiftEvents f d s.outTdi (shiftAnswers f d s).1 :=
  newEvents_of_append (List.append_assoc ..)

end

/-- Settles O26: the state after the prologue and sixteen bits. -/
theorem drShift16RunsTheScan : Obligations.DrShift16RunsTheScan :=
  ⟨decode_drShift16_word, fun d s => ⟨exec_drShift16 d s, scan_counts isPrologue_drPrologue .sixteen d s⟩⟩

/-- Settles O27: the state after the prologue and eight bits. -/
theorem irShiftRunsTheScan : Obligations.IrShiftRunsTheScan :=
  ⟨decode_irShift_word, fun i s => ⟨exec_irShift i s, scan_counts isPrologue_irPrologue .eight i s⟩⟩

/-- Settles O28: where a scan ends is the walk along its TMS levels, from Run-Test/Idle back to it. -/
theorem scansStartAndEndInRunTestIdle : Obligations.ScansStartAndEndInRunTestIdle := by
  refine ⟨fun d s t h => ?lines, fun d s t h => ?drShift16, fun d s t h => ?irShift, fun d s t htap h => ?fromReset⟩
  case lines =>
    obtain h | h := h
    · obtain rfl := eq_of_exec_drShift16 h
      exact ⟨fun htap => by rw [afterShift_afterPrologue_tap, htap]; rfl, rfl, rfl, rfl⟩
    · obtain rfl := eq_of_exec_irShift h
      exact ⟨fun htap => by rw [afterShift_afterPrologue_tap, htap]; rfl, rfl, rfl, rfl⟩
  case drShift16 =>
    obtain rfl := eq_of_exec_drShift16 h
    exact ⟨afterShift_afterPrologue_tap .., _, newEvents_afterShift_afterPrologue ..⟩
  case irShift =>
    obtain rfl := eq_of_exec_irShift h
    exact ⟨afterShift_afterPrologue_tap .., _, newEvents_afterShift_afterPrologue ..⟩
  case fromReset =>
    obtain rfl := eq_of_exec_drShift16 h
    have hstart : (viewOf s).tap = .testLogicReset := htap
    rw [afterShift_afterPrologue_tap, htap, newEvents_afterShift_afterPrologue, edgeTaps_eq_tapTrail,
      edgeTms_scan isPrologue_drPrologue, hstart]
    exact ⟨rfl, rfl⟩

/-- Commands in a row do what one command does that has their micro-steps in a row. -/
theorem execAll_eq_exec {i j : Instr} {is : List Instr} (h : (i :: is).flatMap commandSteps = commandSteps j) (s : State) :
    execAll (i :: is) s = exec j s := by
  rw [execAll_cons_eq, h, exec_eq, runCommand_eq]

/-- Settles O29: the micro-steps of the commands by hand are those of the scan, in the same order. -/
theorem scansEqualTheirPrologueThenShift : Obligations.ScansEqualTheirPrologueThenShift :=
  fun _ s => ⟨execAll_eq_exec rfl s, execAll_eq_exec rfl s⟩

end Sys2Proof.Machine
end

section
/-! `RESET_TAP` (spec/43_reset_tap.md R150, R153): at the edges of its pulses TMS is high, often enough for Test-Logic-Reset from
every state, and at the one edge after them it is low; the block's TAP copy and a target walk along the same levels. -/

namespace Sys2Proof.Machine

/-- A TAP controller that watches events walks along TMS as its edges see it (R27, R28). -/
theorem watchAll_tap_eq_tapWalk (v : TapView) (es : List PinEvent) :
    (watchAll v es).tap = tapWalk v.tap ((edgeLevels v.wires es).map Prod.fst) := by
  induction es generalizing v with
  | nil => rfl
  | cons e es ih => cases hrise : isRise v.wires e <;> simp [watchAll, watch, edgeLevels, tapWalk, hrise, ih]

/-- Pulses in a row: one edge each, all with TMS as it is (R92). -/
theorem performAll_pulses (n : Nat) (s : State) :
    performAll (List.replicate (n + 1) pulse).flatten s =
      { s with
        outTck := true
        tap := tapWalk s.tap (List.replicate (n + 1) s.outTms)
        events := s.events ++ (List.replicate (n + 1) pulseEvents).flatten } := by
  induction n generalizing s with
  | zero => exact performAll_pulse s
  | succ n ih =>
    rw [List.replicate_succ, List.flatten_cons, performAll_append, performAll_pulse, ih]
    simp only [List.append_assoc]
    rfl

/-- How many edges of `RESET_TAP` have TMS high: the six pulses, and step 3 when TCK was low at the start (R150). -/
def tmsHighEdges (tck : Bool) : Nat := if tck then resetPulses else resetPulses + 1

/-- TMS at the edges of `RESET_TAP`, when TCK is at `tck` at the start (R150). -/
def resetTapTms (tck : Bool) : List Bool := List.replicate (tmsHighEdges tck) true ++ [false]

/-- Step 4 of R150 ends in Test-Logic-Reset: five edges with TMS high are enough (R29). -/
theorem tapWalk_tmsHighEdges (q : Tap) (tck : Bool) :
    tapWalk q (List.replicate (tmsHighEdges tck) true) = .testLogicReset := by
  obtain ⟨-, hfive, -⟩ := tapNextProperties
  have henough : 5 ≤ tmsHighEdges tck := by cases tck <;> decide
  exact (tapWalk_replicate_true_iff q _).mpr ((hfive q).trans henough)

theorem tapWalk_resetTapTms (q : Tap) (tck : Bool) : tapWalk q (resetTapTms tck) = .runTestIdle := by
  rw [resetTapTms, tapWalk_append, tapWalk_tmsHighEdges]
  rfl

theorem length_resetTapTms (tck : Bool) : (resetTapTms tck).length = if tck then 7 else 8 := by
  cases tck <;> rfl

/-! TMS at the edges of the events: of steps 1 to 4, of steps 1 to 7, and of all twelve steps. -/

theorem edgeTms_resetTapEvents_take_15 (w : Wires) :
    (edgeLevels w (resetTapEvents.take 15)).map Prod.fst = List.replicate (tmsHighEdges w.tck) true := by
  obtain ⟨tms, tdi, tck, rst, tst⟩ := w
  cases tck <;> rfl

theorem edgeTms_resetTapEvents_take_18 (w : Wires) :
    (edgeLevels w (resetTapEvents.take 18)).map Prod.fst = resetTapTms w.tck := by
  obtain ⟨tms, tdi, tck, rst, tst⟩ := w
  cases tck <;> rfl

theorem edgeTms_resetTapEvents (w : Wires) : (edgeLevels w resetTapEvents).map Prod.fst = resetTapTms w.tck := by
  obtain ⟨tms, tdi, tck, rst, tst⟩ := w
  cases tck <;> rfl

/-- A TAP that sees the events of `RESET_TAP` ends in Run-Test/Idle, whatever state it was in (R153). -/
theorem watchAll_resetTapEvents_tap (v : TapView) : (watchAll v resetTapEvents).tap = .runTestIdle := by
  rw [watchAll_tap_eq_tapWalk, edgeTms_resetTapEvents, tapWalk_resetTapTms]

/-- The twelve steps of R150, with the TAP copy as the walk along their edges. -/
theorem performAll_resetTapSteps (s : State) :
    performAll resetTapSteps s =
      { s with
        outTms := true
        outTdi := true
        outTck := true
        tap := tapWalk s.tap (resetTapTms s.outTck)
        events := s.events ++ resetTapEvents } := by
  rw [resetTapSteps, performAll_append, performAll_append, resetPulses, performAll_pulses]
  cases htck : s.outTck <;>
    simp [perform, emit, htck, resetTapTms, tmsHighEdges, resetPulses, fuseLowUs, tapWalk, resetTapEvents, pulseEvents]

/-- The state `RESET_TAP` leaves, from any state (R150). -/
theorem exec_resetTap (s : State) :
    exec .resetTap s =
      .next { s with
        outTms := true
        outTdi := true
        outTck := true
        tap := .runTestIdle
        events := s.events ++ resetTapEvents
        busy := false
        micro := [] } := by
  have hsteps : commandSteps .resetTap = resetTapSteps := rfl
  rw [exec_eq, runCommand_eq, hsteps, performAll_resetTapSteps, tapWalk_resetTapTms]

/-- Settles O30: the end state is where the walk along the edges leads, and so are the states on the way. -/
theorem resetTapRunsItsTwelveSteps : Obligations.ResetTapRunsItsTwelveSteps := by
  refine ⟨by decide, rfl, rfl, fun s => ⟨exec_resetTap s, ?afterPulses, ?afterNextEdge, ?edges⟩⟩
  case afterPulses => rw [watchAll_tap_eq_tapWalk, edgeTms_resetTapEvents_take_15, tapWalk_tmsHighEdges]
  case afterNextEdge => rw [watchAll_tap_eq_tapWalk, edgeTms_resetTapEvents_take_18, tapWalk_resetTapTms]
  case edges =>
    rw [← List.length_map (f := Prod.fst), edgeTms_resetTapEvents, length_resetTapTms]
    rfl

/-- Settles O31: the target walks along the same TMS levels as the copy, and these lead to Run-Test/Idle from every state. -/
theorem resetTapBringsTheTargetIntoAgreement : Obligations.ResetTapBringsTheTargetIntoAgreement := by
  refine fun s => ⟨_, exec_resetTap s, rfl, rfl, rfl, rfl, fun q => ?agree, rfl, rfl, rfl, rfl, rfl⟩
  case agree => rw [newEvents_of_append rfl, watchAll_resetTapEvents_tap]

end Sys2Proof.Machine
end

section
/-! The two refusals (spec/60_exceptions.md R161 to R166): `err` and the host's moves to come decide nothing about how a running command
goes on, and only a refused word sets `err`. -/

namespace Sys2Proof.Machine

/-! `err` and the host's moves to come commute with the micro-steps, and so with going on by some of them and with a whole command. -/

theorem performAll_with_err (ms : List MicroStep) (s : State) (e : Bool) :
    performAll ms { s with err := e } = { performAll ms s with err := e } := by
  simpa using performAll_with_flags ms s e s.busy s.micro

theorem advanceBy_with_err (k : Nat) (s : State) (e : Bool) :
    advanceBy k { s with err := e } = { advanceBy k s with err := e } := by
  rw [advanceBy, performAll_with_err]
  rfl

theorem advanceBy_with_hostQueue (k : Nat) (s : State) (q : List HostMove) :
    advanceBy k { s with hostQueue := q } = { advanceBy k s with hostQueue := q } := by
  rw [advanceBy, performAll_with_hostQueue]
  rfl

theorem finish_with_err (s : State) (e : Bool) : finish { s with err := e } = { finish s with err := e } := by
  simp only [finish_eq_advanceBy, advanceBy_with_err]

theorem finish_with_hostQueue (s : State) (q : List HostMove) :
    finish { s with hostQueue := q } = { finish s with hostQueue := q } := by
  simp only [finish_eq_advanceBy, advanceBy_with_hostQueue]

theorem runCommand_with_err (ms : List MicroStep) (s : State) (e : Bool) :
    runCommand ms { s with err := e } = { runCommand ms s with err := e } :=
  finish_with_err (accept ms s) e

theorem runCommand_with_hostQueue (ms : List MicroStep) (s : State) (q : List HostMove) :
    runCommand ms { s with hostQueue := q } = { runCommand ms s with hostQueue := q } :=
  finish_with_hostQueue (accept ms s) q

/-! What going on by some micro-steps keeps and leaves to do. -/

@[simp] theorem advanceBy_err (k : Nat) (s : State) : (advanceBy k s).err = s.err := by
  simp [advanceBy]

@[simp] theorem advanceBy_micro (k : Nat) (s : State) : (advanceBy k s).micro = s.micro.drop k := rfl

/-- The block stays busy until the last micro-step has been made (R32). -/
theorem advanceBy_busy_of_lt {k : Nat} {s : State} (h : k < s.micro.length) : (advanceBy k s).busy = true := by
  simpa [advanceBy] using h

/-- A command that stopped before its end ends as if it had not stopped. -/
theorem finish_advanceBy {k : Nat} {s : State} (h : k ≤ s.micro.length) : finish (advanceBy k s) = finish s := by
  rw [finish_eq_advanceBy, finish_eq_advanceBy, advanceBy_advanceBy, advanceBy_micro, List.length_drop,
    Nat.add_sub_cancel' h]

/-- With no move to come the block works on to the end of the running command (R186). -/
theorem workOn_of_no_move {s : State} (h : s.hostQueue = []) : workOn s = finish s := by
  simp [workOn, nextEarly, h]

/-- A command whose host comes early stops where that move lands (R162). -/
theorem startCommand_early (i : Instr) (s : State) (k : Nat) (a : HostAction) (rest : List HostMove) :
    startCommand i { s with hostQueue := ⟨some k, a⟩ :: rest } =
      .next { advanceBy k (accept (commandSteps i) s) with hostQueue := ⟨some k, a⟩ :: rest } :=
  congrArg _ (advanceBy_with_hostQueue k (accept (commandSteps i) s) _)

/-- A word that finds a command running, with no move after it: the command ends as it would have, but for `err` (R162, R164). -/
theorem step_word_while_busy {s : State} (hb : s.busy = true) (e : Option Nat) (w : Word) :
    step { s with hostQueue := [⟨e, .write 0x0 32 w⟩] } = .next { finish s with hostQueue := [], err := true } := by
  rw [step_refused_word (.inl hb), workOn_of_no_move rfl,
    finish_with_err { s with hostQueue := [] }, finish_with_hostQueue s]

/-- Settles O46: the first command stops before its last micro-step, so the second word finds the block busy; what that word leaves is
the rest of the command, with `err` at 1. -/
theorem earlyWordsDoNotDisturbTheCommand : Obligations.EarlyWordsDoNotDisturbTheCommand := by
  intro s w w' i e k hidle hd hk
  obtain ⟨hb, -⟩ := hidle
  have hbusy : (advanceBy k (accept (commandSteps i) s)).busy = true := advanceBy_busy_of_lt hk
  refine ⟨_, _, (step_legal_word hb hd e _).trans (startCommand_early i s k _ []), hbusy, ?err, exec_eq i _, ?rest⟩
  case err => exact advanceBy_err k (accept (commandSteps i) s)
  case rest =>
    rw [step_word_while_busy hbusy, finish_advanceBy hk.le, runCommand_with_hostQueue, runCommand]

/-- Of the host's moves only the reset input clears `err` (R166). -/
theorem Moved.err_sticky {s u : State} (h : Moved s u) (hr : notReset s.hostQueue.head? = true) (he : s.err = true) :
    u.err = true := by
  cases h with
  | reset e rest hq => simp [hq, notReset] at hr
  | refused => rfl
  | none | read | ignored | accepted => exact he

/-- Of the host's moves only a refused word sets `err` (R32, R161, R162). -/
theorem Moved.refused_of_err {s u : State} (h : Moved s u) (hs : s.err = false) (hu : u.err = true) :
    ∃ (e : Option Nat) (w : Word) (rest : List HostMove), s.hostQueue = ⟨e, .write 0x0 32 w⟩ :: rest ∧
      (s.busy = true ∨ ∃ c, decode w = .error c) := by
  cases h with
  | refused e w rest hq why => exact ⟨e, w, rest, hq, why⟩
  | reset => cases hu
  | none | read | ignored | accepted => exact absurd (hs.symm.trans hu) Bool.false_ne_true

/-- Settles O47: a step is the host's move and then micro-steps, and these neither write `err` nor depend on it. -/
theorem errIsStickyAndSetByRefusalsOnly : Obligations.ErrIsStickyAndSetByRefusalsOnly := by
  refine ⟨fun s t h hr he => ?sticky, fun s t h hs ht => ?setByRefusal, fun s e rest => ?cleared, fun i s t h => ?ignored⟩
  case sticky =>
    obtain ⟨u, k, hmove, rfl⟩ := step_cases h
    rw [advanceBy_err]
    exact hmove.err_sticky hr he
  case setByRefusal =>
    obtain ⟨u, k, hmove, rfl⟩ := step_cases h
    rw [advanceBy_err] at ht
    exact hmove.refused_of_err hs ht
  case cleared =>
    obtain ⟨-, hreset⟩ := resetValues
    obtain ⟨t, hstep, -, herr, -⟩ := hreset s e rest
    exact ⟨t, hstep, herr⟩
  case ignored =>
    rw [exec_eq] at h ⊢
    cases h
    rw [runCommand_with_err]

/-- Settles O48: a word that matches no row is in one of the five classes, and an idle block only sets `err` for it (O4). -/
theorem illegalWordSetsErrOnly : Obligations.IllegalWordSetsErrOnly := by
  intro s e w rest hidle hno
  obtain ⟨hclasses, hstep⟩ := illegalWordsAreTheFiveClasses
  have hillegal : IllegalByFields w := (hclasses w).mp ((decode_error_iff w).mpr hno)
  exact hstep w s e rest hillegal hidle

end Sys2Proof.Machine
end

section
/-! The two round trips of the decoder and the words of the opcode map (spec/30_encoding.md R70 to R75). -/

namespace Sys2Proof

theorem immField_encode (i : Instr) : immField (encode i) = operandOf i := (encode_fields i).2.2

/-- A 16-bit value whose upper byte is 0 is its lower byte, zero-extended. -/
theorem eq_zero_append_of_high_zero {d : Half} (h : d.extractLsb' 8 8 = 0#8) : d = 0#8 ++ d.extractLsb' 0 8 := by
  calc d = d.extractLsb' 0 (8 + 8) := BitVec.extractLsb'_eq_self.symm
    _ = d.extractLsb' 8 8 ++ d.extractLsb' 0 8 := (BitVec.extractLsb'_append_extractLsb'_eq_extractLsb' rfl).symm
    _ = 0#8 ++ d.extractLsb' 0 8 := by rw [h]

/-- `imm_lo` is the whole operand when `imm_hi` is 0 (R71, R72). -/
theorem immLoField_encode_of_high_zero {i : Instr} (h : (operandOf i).extractLsb' 8 8 = 0#8) :
    immLoField (encode i) = operandOf i :=
  (immLoField_encode_of_octet (eq_zero_append_of_high_zero h)).trans (eq_zero_append_of_high_zero h).symm

theorem immField_of_high_zero {w : Word} (h : w.extractLsb' 8 8 = 0#8) : immField w = immLoField w := by
  rw [immField_eq_bytes, h, zero_append_octet, immLoField]

theorem oneRow : (i : Instr) → Laws.OneRow.Statement i
  | .clrTms => Laws.OneRow.clrTms
  | .setTms => Laws.OneRow.setTms
  | .clrTdi => Laws.OneRow.clrTdi
  | .setTdi => Laws.OneRow.setTdi
  | .clrTck => Laws.OneRow.clrTck
  | .setTck => Laws.OneRow.setTck
  | .clrTclk => Laws.OneRow.clrTclk
  | .setTclk => Laws.OneRow.setTclk
  | .clrRst => Laws.OneRow.clrRst
  | .setRst => Laws.OneRow.setRst
  | .clrTst => Laws.OneRow.clrTst
  | .setTst => Laws.OneRow.setTst
  | .scanTdo => Laws.OneRow.scanTdo
  | .delayUs n => Laws.OneRow.delayUs n
  | .delayMs n => Laws.OneRow.delayMs n
  | .shift8 d => Laws.OneRow.shift8 d
  | .shift16 d => Laws.OneRow.shift16 d
  | .drShift16 d => Laws.OneRow.drShift16 d
  | .irShift i => Laws.OneRow.irShift i
  | .resetTap => Laws.OneRow.resetTap

/-- A command is read back when the row of its name cuts from its word the operand that was put in. -/
theorem decode_encode_of_build {i : Instr} (hwf : i.WellFormed) {r : OpcodeRow}
    (hname : opcodeRows.find? (fun r => r.mnemonic == mnemonicOf i) = some r) (hbuild : r.build (encode i) = i) :
    decode (encode i) = .ok i := by
  rw [decode_encode_of_oneRow (oneRow i) hwf hname, hbuild]

/-- Settles O1: a row's command has no operand, or the 16 bits of `imm`, or `imm_lo` below a byte that is 0. -/
theorem decodeOfEncodeIsTheCommand : Obligations.DecodeOfEncodeIsTheCommand := by
  intro i hwf
  cases i with
  | clrTms | setTms | clrTdi | setTdi | clrTck | setTck | clrTclk | setTclk | clrRst | setRst | clrTst | setTst | scanTdo
  | resetTap => exact decode_encode_of_build hwf rfl rfl
  | delayUs n | delayMs n | shift16 n | drShift16 n =>
    refine decode_encode_of_build hwf rfl ?_
    simp only [immField_encode, operandOf]
  | shift8 d =>
    have hhigh : d.extractLsb' 8 8 = 0#8 := beq_iff_eq.mp hwf
    exact decode_encode_of_build hwf rfl (congrArg Instr.shift8 (immLoField_encode_of_high_zero hhigh))
  | irShift d =>
    have hhigh : d.extractLsb' 8 8 = 0#8 := beq_iff_eq.mp hwf
    exact decode_encode_of_build hwf rfl (congrArg Instr.irShift (immLoField_encode_of_high_zero hhigh))

/-- The decoder read through the encoder (O1). -/
theorem decode_of_encode_eq {i : Instr} {w : Word} (hwf : i.WellFormed) (hword : encode i = w) : decode w = .ok i := by
  rw [← hword, decodeOfEncodeIsTheCommand i hwf]

/-- The words that match the row are the words of the commands it builds, which are well-formed and of its name (R72, R75). -/
def RowInvertsEncode (r : OpcodeRow) : Prop :=
  ∀ w : Word, w &&& r.mask = r.value →
    (r.build w).WellFormed ∧ encode (r.build w) = w ∧ mnemonicOf (r.build w) = r.mnemonic

/-- A row without operand. -/
theorem rowInvertsEncode_plain {name : String} {value : Word} {i : Instr} (hwf : i.WellFormed) (hword : encode i = value)
    (hname : mnemonicOf i = name) : RowInvertsEncode ⟨name, value, 0xFFFFFFFF#32, fun _ => i⟩ := by
  intro w hw
  rw [and_mask_all] at hw
  exact ⟨hwf, hword.trans hw.symm, hname⟩

/-- A row with a 16-bit operand. -/
theorem rowInvertsEncode_half {name : String} {value : Word} {c : Half → Instr} (hwf : ∀ n, (c n).WellFormed)
    (hop : ∀ n, opcodeOf (c n) = opField value) (hfmt : ∀ n, formatOf (c n) = fmtField value)
    (himm : ∀ n, operandOf (c n) = n) (hname : ∀ n, mnemonicOf (c n) = name) :
    RowInvertsEncode ⟨name, value, 0xFFFF0000#32, fun w => c (immField w)⟩ := by
  intro w hw
  obtain ⟨hwop, hwfmt, -⟩ := (matches_high16_iff w value).mp hw
  obtain ⟨eop, efmt, eimm⟩ := encode_fields (c (immField w))
  refine ⟨hwf _, (eq_iff_fields _ _).mpr ⟨?_, ?_, ?_⟩, hname _⟩
  · rw [eop, hop, hwop]
  · rw [efmt, hfmt, hwfmt]
  · rw [eimm, himm]

/-- A row with an eight-bit operand: its mask holds the byte above the operand at 0. -/
theorem rowInvertsEncode_octet {name : String} {value : Word} {c : Half → Instr}
    (hwf : ∀ n, (c n).wellFormed = (n.extractLsb' 8 8 == 0#8)) (hop : ∀ n, opcodeOf (c n) = opField value)
    (hfmt : ∀ n, formatOf (c n) = fmtField value) (hvalue : immField value = 0#16) (himm : ∀ n, operandOf (c n) = n)
    (hname : ∀ n, mnemonicOf (c n) = name) :
    RowInvertsEncode ⟨name, value, 0xFFFFFF00#32, fun w => c (immLoField w)⟩ := by
  intro w hw
  obtain ⟨hwop, hwfmt, hwimm⟩ := (matches_high24_iff w value).mp hw
  have hhigh : w.extractLsb' 8 8 = 0#8 := (append_zero_eq_zero_iff _).mp (hwimm.trans hvalue)
  have hlow : (immLoField w).extractLsb' 8 8 = 0#8 := by
    rw [immLoField, ← zero_append_octet, BitVec.extractLsb'_append_eq_left]
  obtain ⟨eop, efmt, eimm⟩ := encode_fields (c (immLoField w))
  refine ⟨(hwf _).trans (beq_iff_eq.mpr hlow), (eq_iff_fields _ _).mpr ⟨?_, ?_, ?_⟩, hname _⟩
  · rw [eop, hop, hwop]
  · rw [efmt, hfmt, hwfmt]
  · rw [eimm, himm, immField_of_high_zero hhigh]

theorem rowInvertsEncode_of_mem_lineRows : ∀ r ∈ lineRows, RowInvertsEncode r := by
  simp only [lineRows, List.forall_mem_cons]
  refine ⟨?_, ?_, ?_, ?_, ?_, ?_, ?_, ?_, ?_, ?_, ?_, ?_, List.forall_mem_nil _⟩ <;>
  exact rowInvertsEncode_plain (by decide) rfl rfl

theorem rowInvertsEncode_of_mem_otherRows : ∀ r ∈ otherRows, RowInvertsEncode r := by
  simp only [otherRows, List.forall_mem_cons]
  refine ⟨?scanTdo, ?delayUs, ?delayMs, ?shift8, ?shift16, ?drShift16, ?irShift, ?resetTap, List.forall_mem_nil _⟩
  case scanTdo | resetTap => exact rowInvertsEncode_plain (by decide) rfl rfl
  case delayUs | delayMs | shift16 | drShift16 =>
    exact rowInvertsEncode_half (fun _ => rfl) (fun _ => rfl) (fun _ => rfl) (fun _ => rfl) (fun _ => rfl)
  case shift8 | irShift =>
    exact rowInvertsEncode_octet (fun _ => rfl) (fun _ => rfl) (fun _ => rfl) rfl (fun _ => rfl) (fun _ => rfl)

theorem rowInvertsEncode_of_mem {r : OpcodeRow} (hr : r ∈ opcodeRows) : RowInvertsEncode r :=
  (List.mem_append.mp hr).elim (rowInvertsEncode_of_mem_lineRows r) (rowInvertsEncode_of_mem_otherRows r)

/-- A word that decodes matches a row, and that row builds the command (R72). -/
theorem exists_row_of_decode {w : Word} {i : Instr} (h : decode w = .ok i) :
    ∃ r ∈ opcodeRows, w &&& r.mask = r.value ∧ r.build w = i := by
  unfold decode at h
  split at h
  next r hfind =>
    have hmatch := List.find?_some hfind
    exact ⟨r, List.mem_of_find?_eq_some hfind, beq_iff_eq.mp hmatch, Except.ok.inj h⟩
  next => cases h

/-- Settles O2: the row that the word matches inverts the encoder. -/
theorem encodeOfDecodeIsTheWord : Obligations.EncodeOfDecodeIsTheWord := by
  intro w i h
  obtain ⟨r, hr, hmatch, rfl⟩ := exists_row_of_decode h
  obtain ⟨hwf, hword, -⟩ := rowInvertsEncode_of_mem hr w hmatch
  exact ⟨hwf, hword⟩

/-- A row that matches is followed: the word is that of the row's command, and decodes to it (O1). -/
theorem decode_of_row {r : OpcodeRow} (hr : r ∈ opcodeRows) {w : Word} (hmatch : w &&& r.mask = r.value) :
    decode w = .ok (r.build w) ∧ mnemonicOf (r.build w) = r.mnemonic := by
  obtain ⟨hwf, hword, hname⟩ := rowInvertsEncode_of_mem hr w hmatch
  exact ⟨decode_of_encode_eq hwf hword, hname⟩

/-- Settles O3: each row that matches a word names the one command the word decodes to. -/
theorem decodingFollowsTheOneMatchingRow : Obligations.DecodingFollowsTheOneMatchingRow := by
  intro w
  refine ⟨fun r hr r' hr' h h' => ?one, fun r hr h => decode_of_row hr h, (decode_error_iff w).mpr⟩
  obtain ⟨hdec, hname⟩ := decode_of_row hr h
  obtain ⟨hdec', hname'⟩ := decode_of_row hr' h'
  have hsame : r.build w = r'.build w := Except.ok.inj (hdec.symm.trans hdec')
  rw [← hname, hsame, hname']

/-- R106: `0x3000nnnn`. -/
theorem decode_delayUs_word (n : Half) : decode (0x3000#16 ++ n) = .ok (.delayUs n) :=
  decode_of_encode_eq (i := .delayUs n) rfl (congrArg (· ++ n) (by decide : 0x30#8 ++ 0x00#8 = 0x3000#16))

/-- R107: `0x3100nnnn`. -/
theorem decode_delayMs_word (n : Half) : decode (0x3100#16 ++ n) = .ok (.delayMs n) :=
  decode_of_encode_eq (i := .delayMs n) rfl (congrArg (· ++ n) (by decide : 0x31#8 ++ 0x00#8 = 0x3100#16))

/-- Settles O6: the words without operand one by one, and each row with an operand by its word lemma. -/
theorem opcodeMapWordsDecode : Obligations.OpcodeMapWordsDecode := by
  refine ⟨by decide, by decide, by decide, by decide, by decide, by decide, by decide, by decide, by decide, by decide,
    by decide, by decide, by decide, by decide, fun n => ?half, fun b => ?octet⟩
  case half => exact ⟨decode_delayUs_word n, decode_delayMs_word n, decode_shift16_word n, decode_drShift16_word n⟩
  case octet => exact ⟨decode_shift8_word b, decode_irShift_word b⟩

/-- Settles O5: closed words, each run through the decoder. -/
theorem wordsOfTheSpecDecode : Obligations.WordsOfTheSpecDecode := by
  unfold Obligations.WordsOfTheSpecDecode
  decide

end Sys2Proof
end

section
/-! The TAP copy: its numbering (spec/10_state.md R26), how it follows the pin events (R30), and the commands that keep it in
Run-Test/Idle (spec/70_reset_and_hazards.md R182). -/

namespace Sys2Proof.Machine

/-- The state of a number: the inverse of `tapCode` (R26). -/
def tapOfCode (c : BitVec 4) : Tap :=
  [.testLogicReset, .runTestIdle, .selectDrScan, .captureDr, .shiftDr, .exit1Dr, .pauseDr, .exit2Dr, .updateDr,
    .selectIrScan, .captureIr, .shiftIr, .exit1Ir, .pauseIr, .exit2Ir].getD c.toNat .updateIr

theorem tapOfCode_tapCode : Function.LeftInverse tapOfCode tapCode := by
  intro q
  cases q <;> rfl

theorem tapCode_tapOfCode : Function.RightInverse tapOfCode tapCode := by decide

/-- Settles O9: the numbering has an inverse on both sides. -/
theorem tapCodesNumberTheStates : Obligations.TapCodesNumberTheStates :=
  ⟨rfl, rfl, rfl, rfl, rfl, rfl, rfl, rfl, rfl, rfl, rfl, rfl, rfl, rfl, rfl, rfl,
    fun _ _ => tapOfCode_tapCode.injective.eq_iff, tapCode_tapOfCode.surjective⟩

/-- Settles O10: each micro-step of a step leads from view to view, and so does the step. -/
theorem tapCopyFollowsThePinEvents : Obligations.TapCopyFollowsThePinEvents :=
  fun _ _ h hr => newEvents_of_eventsLead (step_eventsLead h hr)

/-- What every micro-step of a list leaves alone the list leaves alone. -/
theorem performAll_keeps {α : Type} {read : State → α} {ms : List MicroStep}
    (h : ∀ m ∈ ms, ∀ s, read (perform m s) = read s) (s : State) : read (performAll ms s) = read s := by
  induction ms generalizing s with
  | nil => rfl
  | cons m ms ih =>
    obtain ⟨hm, hms⟩ := List.forall_mem_cons.mp h
    rw [performAll_cons, ih hms, hm]

/-- Micro-steps none of which sets TCK leave the TAP copy alone (R28). -/
theorem performAll_tap_of_no_set_tck {ms : List MicroStep} (h : .setLine .tck ∉ ms) (s : State) :
    (performAll ms s).tap = s.tap := by
  refine performAll_keeps (read := State.tap) (fun m hm u => ?_) s
  have hno : m ≠ .setLine .tck := fun hset => h (hset ▸ hm)
  rw [perform_tap, if_neg fun hrise => hno hrise.1]

/-- A command that does not set TCK leaves the TAP copy alone. -/
theorem exec_keeps_tap {i : Instr} (h : .setLine .tck ∉ commandSteps i) (s : State) :
    ∃ t : State, exec i s = .next t ∧ t.tap = s.tap :=
  ⟨_, exec_eq i s, by rw [runCommand_eq]; exact performAll_tap_of_no_set_tck h s⟩

/-- Settles O32: a scan comes back to Run-Test/Idle (O28), `RESET_TAP` ends in it, and the other commands do not set TCK. -/
theorem runTestIdleIsKeptBetweenScans : Obligations.RunTestIdleIsKeptBetweenScans := by
  intro i s hsafe htap
  obtain ⟨scan, -⟩ := scansStartAndEndInRunTestIdle
  have keeps (h : .setLine .tck ∉ commandSteps i) : ∃ t : State, exec i s = .next t ∧ t.tap = .runTestIdle :=
    htap ▸ exec_keeps_tap h s
  cases i with
  | clrTck | setTck | shift8 _ | shift16 _ => cases hsafe
  | clrTms | setTms | clrTdi | setTdi | clrTclk | setTclk | clrRst | setRst | clrTst | setTst | scanTdo =>
    exact keeps (by decide)
  | delayUs n | delayMs n => exact keeps (by simp [commandSteps, delayUsSteps, delayMsSteps])
  | drShift16 d => exact ⟨_, exec_drShift16 d s, (scan d s _ (.inl (exec_drShift16 d s))).1 htap⟩
  | irShift d => exact ⟨_, exec_irShift d s, (scan d s _ (.inr (exec_irShift d s))).1 htap⟩
  | resetTap => exact ⟨_, exec_resetTap s, rfl⟩

end Sys2Proof.Machine
end

section
/-! Whole commands and single micro-steps: every command ends (spec/60_exceptions.md R160), a delay is its event
(spec/40_line_primitives.md R106, R107), a micro-step is at most one access (spec/20_memory.md R57, R58). -/

namespace Sys2Proof.Machine

/-- Settles O18: a delay is one micro-step, which emits its event. -/
theorem delaysEmitOneWait : Obligations.DelaysEmitOneWait :=
  fun n s => ⟨exec_singleStep (m := .delayUs n.toNat) rfl s, exec_singleStep (m := .delayMs n.toNat) rfl s⟩

/-- Settles O33: a command is its micro-steps, which do not write `err` and only add events. -/
theorem everyCommandRunsToItsEnd : Obligations.EveryCommandRunsToItsEnd := by
  intro i s
  have hlead : EventsLead s (runCommand (commandSteps i) s) := by
    rw [runCommand_eq]
    exact (performAll_eventsLead (commandSteps i) s).trans (.of_eq rfl rfl)
  refine ⟨_, exec_eq i s, ⟨rfl, rfl⟩, ?err, (newEvents_of_eventsLead hlead).1⟩
  case err => rw [runCommand_eq]; exact performAll_err _ s

/-- From `s` to `t` at most one event is added, and the lines are what it makes of them. -/
def AtMostOneAccess (s t : State) : Prop :=
  (t.events = s.events ∧ wiresOf t = wiresOf s) ∨
    ∃ e : PinEvent, t.events = s.events ++ [e] ∧ wiresOf t = wireEvent (wiresOf s) e

theorem setLine_atMostOneAccess (l : Line) (s : State) : AtMostOneAccess s (setLine l s) := by
  refine .inr ⟨.set l, ?_, ?_⟩ <;> cases l <;> simp [wiresOf]

theorem clrLine_atMostOneAccess (l : Line) (s : State) : AtMostOneAccess s (clrLine l s) := by
  refine .inr ⟨.clr l, ?_, ?_⟩ <;> cases l <;> simp [wiresOf]

theorem writeLine_atMostOneAccess (l : Line) (v : Bool) (s : State) : AtMostOneAccess s (writeLine l v s) := by
  cases v
  · exact clrLine_atMostOneAccess l s
  · exact setLine_atMostOneAccess l s

/-- Settles O36: a write of a line, a sample and a wait are one event each; the other micro-steps are none. -/
theorem eachMicroStepMakesAtMostOneAccess : Obligations.EachMicroStepMakesAtMostOneAccess := by
  intro m s
  have sampled {t : State} (he : t.events = (sample s).2.events) (hw : wiresOf t = wiresOf (sample s).2) :
      AtMostOneAccess s t :=
    .inr ⟨.rd (tdoLevel s), by rw [he, sample_eq], by rw [hw, sample_eq]; rfl⟩
  cases m with
  | setLine l => exact setLine_atMostOneAccess l s
  | clrLine l => exact clrLine_atMostOneAccess l s
  | driveBit i => exact writeLine_atMostOneAccess .tdi _ s
  | restoreTclk => exact writeLine_atMostOneAccess .tdi _ s
  | scanTdo | sampleBit => exact sampled rfl rfl
  | delayUs n => exact .inr ⟨.waitUs n, rfl, rfl⟩
  | delayMs n => exact .inr ⟨.waitMs n, rfl, rfl⟩
  | saveTclk | loadShift _ _ | countBit | storeResult => exact .inl ⟨rfl, rfl⟩

end Sys2Proof.Machine
end

section
/-! What a step does with a legal word, with an access that has no meaning, and with no move (spec/10_state.md R34, spec/20_memory.md
R56, spec/70_reset_and_hazards.md R191); the host space under a platform's addresses (R5, R64). -/

namespace Sys2Proof.Machine

/-- A command whose host waits is its meaning (R34). -/
theorem startCommand_of_host_waits {s : State} (h : ∀ mv ∈ s.hostQueue.head?, mv.early = none) (i : Instr) :
    startCommand i s = exec i s := by
  have hnone : nextEarly s = none := by
    unfold nextEarly
    split
    next => rfl
    next mv rest hq => exact h mv (by rw [hq]; rfl)
  rw [startCommand, hnone]

/-- Settles O41: a legal word starts its command, which the host waits for or comes early into. -/
theorem stepRunsTheDecodedCommand : Obligations.StepRunsTheDecodedCommand := by
  refine ⟨fun s w i e rest hb hd hwait => ?whole, fun s w i e k a rest hb hd => ?early⟩
  case whole => rw [step_legal_word hb hd, startCommand_of_host_waits hwait]
  case early => exact step_legal_word hb hd e _

/-- R56: the accesses that have a meaning. -/
theorem hostAccessOk_iff (o : Int) (n : Nat) :
    hostAccessOk o n = true ↔ n = 32 ∧ (o = 0x0 ∨ o = 0x4 ∨ o = 0x8) := by
  simp [hostAccessOk, hostWidth, cmdOffset, resultOffset, statusOffset, or_assoc]

/-- Settles O45: such an access does not pass the test of R56. -/
theorem otherHostAccessesAreRefused : Obligations.OtherHostAccessesAreRefused := by
  intro s e o n w rest h
  have hno : ¬ hostAccessOk o n = true := by
    rw [hostAccessOk_iff]
    tauto
  constructor <;> rw [step_hostAct, hostAct, if_neg hno]

theorem step_of_no_move {s : State} (h : s.hostQueue = []) : step s = .next (finish s) := by
  rw [step, h]

/-- Settles O50: with no move to come a step is the end of the running command. -/
theorem withoutAMoveTheBlockFinishesAndRests : Obligations.WithoutAMoveTheBlockFinishesAndRests := by
  refine ⟨fun s h => ⟨_, step_of_no_move h, ⟨rfl, rfl⟩, ?err⟩, fun s h hidle => ?rests⟩
  case err => rw [finish_eq_advanceBy, advanceBy_err]
  case rests => rw [step_of_no_move h, finish_idle hidle]

theorem busAction_read (m : AddressMap) (o n : Nat) : busAction m (.read (m.hostBase + o) n) = .read o n := by
  simp [busAction]

theorem busAction_write (m : AddressMap) (o n : Nat) (w : Word) :
    busAction m (.write (m.hostBase + o) n w) = .write o n w := by
  simp [busAction]

/-- Three offsets of their own are three addresses of their own: `GPIO_BASE` is added to each (R64). -/
theorem nodup_gpioAddresses {m : AddressMap} (hwf : m.Wf) {n : Nat} (x y v : BitVec n) :
    [gpioAddress m (.writeSet x), gpioAddress m (.writeClr y), gpioAddress m (.readIn v)].Nodup :=
  List.Nodup.map (add_right_injective m.gpioBase) hwf

/-- Settles O51: an address is an offset added to `HOST_BASE`, so an access elsewhere is one at an offset that O45 refuses. -/
theorem registersLieAtTheirAddresses : Obligations.RegistersLieAtTheirAddresses := by
  refine ⟨fun m o n w => ⟨busAction_read m o n, busAction_write m o n w⟩, fun m s e a n w rest h => ?elsewhere,
    fun m s e w rest hidle => ?registers, fun m n x y v hwf => nodup_gpioAddresses hwf x y v⟩
  case elsewhere =>
    exact otherHostAccessesAreRefused s e (a - m.hostBase) n w rest (by omega)
  case registers =>
    have rests (reads : List Word) :
        workOn { s with hostQueue := rest, hostReads := reads } = { s with hostQueue := rest, hostReads := reads } :=
      workOn_idle hidle
    refine ⟨?result, ?status, ?cmd⟩
    case result => rw [busAction_read, step_read rfl, rests]; rfl
    case status => rw [busAction_read, step_read rfl, rests]; rfl
    case cmd => rw [← Nat.add_zero m.hostBase, busAction_write]; rfl

end Sys2Proof.Machine
end

section
/-! The GPIO triple (spec/20_memory.md R51 to R54): which bit of the port an access writes, and how the port follows the lines that the
events drive. -/

namespace Sys2Proof.Machine

/-- A power of two as a word has one bit. -/
theorem getLsbD_ofNat_two_pow {w k : Nat} (hk : k < w) (b : Nat) :
    (BitVec.ofNat w (2 ^ k)).getLsbD b = decide (b = k) := by
  rw [BitVec.getLsbD_ofNat, Nat.testBit_two_pow]
  by_cases h : b = k
  · simp [h, hk]
  · simp [h, Ne.symm h]

section
variable {p : PinMap} (hwf : p.Wf)
include hwf

theorem tdo_lt_width : p.tdo < p.width := by
  obtain ⟨-, hlt, -⟩ := hwf
  exact hlt _ (by simp)

theorem pinOf_lt_width (l : Line) : pinOf p l < p.width := by
  obtain ⟨-, hlt, -⟩ := hwf
  exact hlt _ (by cases l <;> simp [pinOf])

/-- No two lines share a pin (R5). -/
theorem pinOf_injective : Function.Injective (pinOf p) := by
  obtain ⟨-, -, hnodup⟩ := hwf
  intro l k h
  cases l <;> cases k <;> simp_all [pinOf]

/-- A written mask has the bit of its line and no other (R51, R52). -/
theorem getLsbD_oneHot (l : Line) (b : Nat) : (oneHot p l).getLsbD b = decide (b = pinOf p l) :=
  getLsbD_ofNat_two_pow (pinOf_lt_width hwf l) b

/-- A read word has the sample at TDO's pin, and every other bit as it comes (R53). -/
theorem getLsbD_inputWord (others : BitVec p.width) (v : Bool) (b : Nat) :
    (inputWord p others v).getLsbD b = if b = p.tdo then v else others.getLsbD b := by
  have hin := others.lt_of_getLsbD (i := b)
  simp only [inputWord, BitVec.getLsbD_or, BitVec.getLsbD_and, BitVec.getLsbD_not, apply_ite (BitVec.getLsbD · b),
    getLsbD_ofNat_two_pow (tdo_lt_width hwf), BitVec.getLsbD_zero]
  by_cases hb : b = p.tdo
  · simp [hb]
  · simpa [hb] using hin

end

/-- Settles O37: each mask is a power of two below the width of the port. -/
theorem gpioMasksAreOneHot : Obligations.GpioMasksAreOneHot :=
  fun _ hwf => ⟨getLsbD_oneHot hwf, rfl,
    fun others v => ⟨by rw [getLsbD_inputWord hwf, if_pos rfl], fun b hb => by rw [getLsbD_inputWord hwf, if_neg hb]⟩⟩

/-- The level of a line among the five. -/
def wireLevel (w : Wires) : Line → Bool
  | .tms => w.tms
  | .tdi => w.tdi
  | .tck => w.tck
  | .rst => w.rst
  | .tst => w.tst

theorem level_eq_wireLevel (s : State) (l : Line) : level s l = wireLevel (wiresOf s) l := by
  cases l <;> rfl

theorem wireLevel_driveWire (w : Wires) (l k : Line) (v : Bool) :
    wireLevel (driveWire l v w) k = if k = l then v else wireLevel w k := by
  cases l <;> cases k <;> rfl

/-- The port after an event list is the port after its first event, and then after the others. -/
theorem portAfterEvents_cons (p : PinMap) (others lines : BitVec p.width) (e : PinEvent) (es : List PinEvent) :
    portAfterEvents p others lines (e :: es) = portAfterEvents p others (portAfterEvents p others lines [e]) es := by
  cases e <;> rfl

section
variable {p : PinMap} (hwf : p.Wf) (others lines : BitVec p.width)
include hwf

theorem getLsbD_portAfter_set (l : Line) (b : Nat) :
    (portAfterEvents p others lines [.set l]).getLsbD b = if b = pinOf p l then true else lines.getLsbD b := by
  have hport : portAfterEvents p others lines [.set l] = lines ||| oneHot p l := rfl
  rw [hport, BitVec.getLsbD_or, getLsbD_oneHot hwf]
  by_cases hb : b = pinOf p l <;> simp [hb]

theorem getLsbD_portAfter_clr (l : Line) (b : Nat) :
    (portAfterEvents p others lines [.clr l]).getLsbD b = if b = pinOf p l then false else lines.getLsbD b := by
  have hport : portAfterEvents p others lines [.clr l] = lines &&& ~~~oneHot p l := rfl
  rw [hport, BitVec.getLsbD_and, BitVec.getLsbD_not, getLsbD_oneHot hwf]
  by_cases hb : b = pinOf p l
  · simp [hb]
  · simpa [hb] using lines.lt_of_getLsbD

/-- The port's bits at the pins follow the lines under one event (R51 to R53, R57). -/
theorem portAfter_event_shows {w : Wires} (hshow : ∀ l, lines.getLsbD (pinOf p l) = wireLevel w l) (e : PinEvent) (l : Line) :
    (portAfterEvents p others lines [e]).getLsbD (pinOf p l) = wireLevel (wireEvent w e) l := by
  have hpin (k : Line) : pinOf p l = pinOf p k ↔ l = k := (pinOf_injective hwf).eq_iff
  cases e with
  | set k => simp only [getLsbD_portAfter_set hwf, wireEvent, wireLevel_driveWire, hpin, hshow]
  | clr k => simp only [getLsbD_portAfter_clr hwf, wireEvent, wireLevel_driveWire, hpin, hshow]
  | rd _ | waitUs _ | waitMs _ => exact hshow l

/-- A bit that is no line's is left alone by one event (R54). -/
theorem portAfter_event_keeps {b : Nat} (hb : ∀ l, b ≠ pinOf p l) (e : PinEvent) :
    (portAfterEvents p others lines [e]).getLsbD b = lines.getLsbD b := by
  cases e with
  | set k => rw [getLsbD_portAfter_set hwf, if_neg (hb k)]
  | clr k => rw [getLsbD_portAfter_clr hwf, if_neg (hb k)]
  | rd _ | waitUs _ | waitMs _ => rfl

theorem portAfterEvents_shows {w : Wires} (hshow : ∀ l, lines.getLsbD (pinOf p l) = wireLevel w l) (es : List PinEvent)
    (l : Line) :
    (portAfterEvents p others lines es).getLsbD (pinOf p l) = wireLevel (es.foldl wireEvent w) l := by
  induction es generalizing lines w with
  | nil => exact hshow l
  | cons e es ih =>
    rw [portAfterEvents_cons, List.foldl_cons]
    exact ih _ (portAfter_event_shows hwf others lines hshow e)

theorem portAfterEvents_keeps {b : Nat} (hb : ∀ l, b ≠ pinOf p l) (es : List PinEvent) :
    (portAfterEvents p others lines es).getLsbD b = lines.getLsbD b := by
  induction es generalizing lines with
  | nil => rfl
  | cons e es ih => rw [portAfterEvents_cons, ih, portAfter_event_keeps hwf others lines hb]

end

/-- Settles O38: the events of a step drive the lines to the latches after it (O10), and the port follows the lines event by event. -/
theorem portShowsTheLatchesAfterEveryStep : Obligations.PortShowsTheLatchesAfterEveryStep := by
  intro p others lines s t hwf hshow hstep hr
  obtain ⟨-, hview⟩ := tapCopyFollowsThePinEvents s t hstep hr
  have hwires : (newEvents s t).foldl wireEvent (wiresOf s) = wiresOf t := by
    calc (newEvents s t).foldl wireEvent (wiresOf s)
      _ = (watchAll (viewOf s) (newEvents s t)).wires := (watchAll_wires (viewOf s) _).symm
      _ = wiresOf t := by rw [hview]; rfl
  have hstart (l : Line) : lines.getLsbD (pinOf p l) = wireLevel (wiresOf s) l := by
    rw [hshow, level_eq_wireLevel]
  refine ⟨fun l => ?shows, fun b hb => portAfterEvents_keeps hwf others lines hb _⟩
  case shows => rw [portAfterEvents_shows hwf others lines hstart, hwires, level_eq_wireLevel]

end Sys2Proof.Machine
end

section
/-! The invariant of the step (spec/10_state.md R32, R33): a command's micro-steps count as many bits after a load of the shift register
as its format has, and none without a load before them; so `cnt` stays the number of bits still to go. -/

namespace Sys2Proof.Machine

/-- The micro-step that loads the shift register (R122 step 2). -/
def isLoad : MicroStep → Bool
  | .loadShift _ _ => true
  | .setLine _ | .clrLine _ | .delayUs _ | .delayMs _ | .scanTdo | .saveTclk | .driveBit _ => false
  | .sampleBit | .countBit | .restoreTclk | .storeResult => false

theorem ne_loadShift_of_not_isLoad {m : MicroStep} (h : isLoad m = false) (f : ShiftFormat) (d : Half) :
    m ≠ .loadShift f d := by
  rintro rfl
  cases h

/-- Every load of the shift register is followed by as many counts as its format has bits (R122 steps 2 and 3). -/
def CountsEachLoad (ms : List MicroStep) : Prop :=
  ∀ f d rest, .loadShift f d :: rest <:+ ms → rest.count .countBit = formatBits f

theorem CountsEachLoad.of_suffix {xs ms : List MicroStep} (h : CountsEachLoad ms) (hx : xs <:+ ms) : CountsEachLoad xs :=
  fun f d rest hrest => h f d rest (hrest.trans hx)

theorem CountsEachLoad.cons {m : MicroStep} {ms : List MicroStep}
    (hm : ∀ f d, m = .loadShift f d → ms.count .countBit = formatBits f) (h : CountsEachLoad ms) :
    CountsEachLoad (m :: ms) := by
  intro f d rest hrest
  obtain heq | hrest := List.suffix_cons_iff.mp hrest
  · obtain ⟨rfl, rfl⟩ := List.cons.inj heq
    exact hm f d rfl
  · exact h f d rest hrest

/-- Micro-steps without a load may stand before others. -/
theorem CountsEachLoad.append {xs ms : List MicroStep} (hx : ∀ m ∈ xs, isLoad m = false) (h : CountsEachLoad ms) :
    CountsEachLoad (xs ++ ms) := by
  induction xs with
  | nil => exact h
  | cons m xs ih =>
    obtain ⟨hm, hxs⟩ := List.forall_mem_cons.mp hx
    exact .cons (fun f d hload => absurd hload (ne_loadShift_of_not_isLoad hm f d)) (ih hxs)

theorem CountsEachLoad.of_no_load {ms : List MicroStep} (h : ∀ m ∈ ms, isLoad m = false) : CountsEachLoad ms := by
  intro f d rest hrest
  exact absurd rfl (ne_loadShift_of_not_isLoad (h _ (hrest.mem List.mem_cons_self)) f d)

/-- The micro-steps of a shift after its load (R122 steps 3 to 8). -/
def shiftBody (f : ShiftFormat) : List MicroStep :=
  dataSteps (formatBits f) ++ [.restoreTclk] ++ pulse ++ [.clrLine .tms] ++ pulse ++ [.storeResult]

theorem shiftSteps_eq_load (f : ShiftFormat) (d : Half) :
    shiftSteps f d = [.saveTclk] ++ .loadShift f d :: shiftBody f := by
  simp [shiftSteps, shiftBody]

theorem count_shiftBody (f : ShiftFormat) : (shiftBody f).count .countBit = formatBits f := by
  cases f <;> decide

theorem shiftBody_no_load (f : ShiftFormat) : ∀ m ∈ shiftBody f, isLoad m = false := by
  cases f <;> decide

theorem shiftSteps_countsEachLoad (f : ShiftFormat) (d : Half) : CountsEachLoad (shiftSteps f d) := by
  rw [shiftSteps_eq_load]
  refine .append (by decide) (.cons (fun f' d' hload => ?_) (.of_no_load (shiftBody_no_load f)))
  cases hload
  exact count_shiftBody f

/-- The micro-steps of R120 to R122, which read or write the registers of a shift. -/
def isShiftStep : MicroStep → Bool
  | .saveTclk | .loadShift _ _ | .driveBit _ | .sampleBit | .countBit | .restoreTclk | .storeResult => true
  | .setLine _ | .clrLine _ | .delayUs _ | .delayMs _ | .scanTdo => false

theorem not_isLoad_of_not_isShiftStep {m : MicroStep} (h : isShiftStep m = false) : isLoad m = false := by
  cases m with
  | loadShift => cases h
  | setLine | clrLine | delayUs | delayMs | scanTdo | saveTclk | driveBit | sampleBit | countBit | restoreTclk
  | storeResult => rfl

/-- A command that contains a shift ends in it; all its other micro-steps, and all of the other commands', are none of a shift's
(R122, R140, R141). -/
theorem commandSteps_cases (i : Instr) :
    (containsShift i = false ∧ ∀ m ∈ commandSteps i, isShiftStep m = false) ∨
      (containsShift i = true ∧
        ∃ prologue f d, commandSteps i = prologue ++ shiftSteps f d ∧ ∀ m ∈ prologue, isShiftStep m = false) := by
  cases i with
  | clrTms | setTms | clrTdi | setTdi | clrTck | setTck | clrTclk | setTclk | clrRst | setRst | clrTst | setTst | scanTdo
  | resetTap => exact .inl (by decide)
  | delayUs n | delayMs n => exact .inl ⟨rfl, List.forall_mem_singleton.mpr rfl⟩
  | shift8 d => exact .inr ⟨rfl, [], .eight, d, rfl, by decide⟩
  | shift16 d => exact .inr ⟨rfl, [], .sixteen, d, rfl, by decide⟩
  | drShift16 d => exact .inr ⟨rfl, drPrologue, .sixteen, d, rfl, by decide⟩
  | irShift d => exact .inr ⟨rfl, irPrologue, .eight, d, rfl, by decide⟩

theorem commandSteps_countsEachLoad (i : Instr) : CountsEachLoad (commandSteps i) := by
  obtain ⟨-, hno⟩ | ⟨-, prologue, f, d, hsteps, hno⟩ := commandSteps_cases i
  · exact .of_no_load fun m hm => not_isLoad_of_not_isShiftStep (hno m hm)
  · rw [hsteps]
    exact .append (fun m hm => not_isLoad_of_not_isShiftStep (hno m hm)) (shiftSteps_countsEachLoad f d)

/-- `c` is the number of bits that `ms` has still to count, when nothing in `ms` loads the shift register: `CountsBitsToGo` of the
two registers it speaks of (R33). -/
def BitsToGo (c : BitVec 5) (ms : List MicroStep) : Prop :=
  (∀ m ∈ ms, ∀ f d, m ≠ .loadShift f d) → .countBit ∈ ms → c.toNat = ms.count .countBit

/-- An accepted command has its shift register still to load, or counts no bits: `cnt` may be anything. -/
theorem bitsToGo_commandSteps (c : BitVec 5) (i : Instr) : BitsToGo c (commandSteps i) := by
  intro hload hcount
  obtain ⟨-, hno⟩ | ⟨-, prologue, f, d, hsteps, -⟩ := commandSteps_cases i
  · cases hno _ hcount
  · exact absurd rfl (hload (.loadShift f d) (by simp [hsteps, shiftSteps_eq_load]) f d)

/-- One micro-step: a load sets `cnt` to the bits of its format, a count takes one from it and from what is left to count. -/
theorem bitsToGo_perform {m : MicroStep} {ms : List MicroStep} {s : State} (hcounts : CountsEachLoad (m :: ms))
    (h : BitsToGo s.cnt (m :: ms)) : BitsToGo (perform m s).cnt ms := by
  intro hload hcount
  have before (hm : ∀ f d, m ≠ .loadShift f d) : s.cnt.toNat = (m :: ms).count .countBit :=
    h (List.forall_mem_cons.mpr ⟨hm, hload⟩) (List.mem_cons_of_mem m hcount)
  rw [perform_cnt]
  cases m with
  | loadShift f d =>
    rw [hcounts f d ms (List.suffix_refl _)]
    cases f <;> rfl
  | countBit =>
    have hone := before nofun
    rw [List.count_cons_self] at hone
    bv_omega
  | setLine | clrLine | delayUs | delayMs | scanTdo | saveTclk | driveBit | sampleBit | restoreTclk | storeResult =>
    simp [before nofun]

/-- Some micro-steps: `cnt` still counts what is left. -/
theorem bitsToGo_performAll_take {ms : List MicroStep} (hcounts : CountsEachLoad ms) (k : Nat) {s : State}
    (h : BitsToGo s.cnt ms) : BitsToGo (performAll (ms.take k) s).cnt (ms.drop k) := by
  induction ms generalizing k s with
  | nil => simpa using h
  | cons m ms ih =>
    cases k with
    | zero => exact h
    | succ k => exact ih (hcounts.of_suffix (List.suffix_cons m ms)) k (bitsToGo_perform hcounts h)

theorem Inv.countsEachLoad {s : State} (h : Inv s) : CountsEachLoad s.micro := by
  obtain hnil | ⟨i, -, hsuffix⟩ := h.position
  · rw [hnil]
    exact .of_no_load (by simp)
  · exact (commandSteps_countsEachLoad i).of_suffix hsuffix

/-- Going on by some micro-steps keeps the invariant: what is left is an end of what was left. -/
theorem Inv.advanceBy {s : State} (h : Inv s) (k : Nat) : Inv (advanceBy k s) where
  busyIff := rfl
  position := by
    rw [advanceBy_micro]
    obtain hnil | ⟨i, hwf, hsuffix⟩ := h.position
    · exact .inl (by rw [hnil, List.drop_nil])
    · exact .inr ⟨i, hwf, (List.drop_suffix k s.micro).trans hsuffix⟩
  bitsToGo := bitsToGo_performAll_take h.countsEachLoad k h.bitsToGo

/-- A block with nothing to do meets the invariant, whatever its registers hold. -/
theorem inv_of_idle {s : State} (h : Idle s) : Inv s where
  busyIff := by rw [h.1, h.2]; rfl
  position := .inl h.2
  bitsToGo := fun _ hcount => by simp [h.2] at hcount

/-- A legal command that is accepted has all of its micro-steps to do. -/
theorem inv_accept {i : Instr} (hwf : i.WellFormed) (s : State) : Inv (accept (commandSteps i) s) where
  busyIff := by cases i <;> rfl
  position := .inr ⟨i, hwf, List.suffix_refl _⟩
  bitsToGo := bitsToGo_commandSteps s.cnt i

/-- A move of the host keeps the invariant: it accepts the command of a word, which is well-formed (O2), or resets, or leaves `busy`,
`cnt` and the position as they are. -/
theorem Moved.inv {s u : State} (hmove : Moved s u) (h : Inv s) : Inv u := by
  cases hmove with
  | accepted e w i rest hq hb hd => exact inv_accept (encodeOfDecodeIsTheWord w i hd).1 _
  | reset => exact inv_of_idle ⟨rfl, rfl⟩
  | none | read | ignored | refused => exact ⟨h.busyIff, h.position, h.bitsToGo⟩

/-- Settles O39: a step is the host's move and then some micro-steps, and both keep the invariant. -/
theorem stepKeepsTheInvariant : Obligations.StepKeepsTheInvariant := by
  intro s t h hstep
  obtain ⟨u, k, hmove, rfl⟩ := step_cases hstep
  exact (hmove.inv h).advanceBy k

/-- Settles O40: reset leaves an idle block. -/
theorem invariantHoldsAfterReset : Obligations.InvariantHoldsAfterReset :=
  ⟨inv_of_idle ⟨rfl, rfl⟩, fun _ => inv_of_idle ⟨rfl, rfl⟩⟩

end Sys2Proof.Machine
end

section
/-! Who may write what (spec/10_state.md section 1): a register that no micro-step of a command writes is as it was after the
command. -/

namespace Sys2Proof.Machine

/-- The line that a micro-step writes. -/
def drivenLine : MicroStep → Option Line
  | .setLine l | .clrLine l => some l
  | .driveBit _ | .restoreTclk => some .tdi
  | .delayUs _ | .delayMs _ | .scanTdo | .saveTclk | .loadShift _ _ | .sampleBit | .countBit | .storeResult => none

theorem level_setLine (l k : Line) (s : State) : level (setLine l s) k = if k = l then true else level s k := by
  cases l <;> cases k <;> simp

theorem level_clrLine (l k : Line) (s : State) : level (clrLine l s) k = if k = l then false else level s k := by
  cases l <;> cases k <;> simp

theorem level_writeLine_of_ne {l k : Line} (h : k ≠ l) (v : Bool) (s : State) : level (writeLine l v s) k = level s k := by
  cases v
  · exact (level_clrLine l k s).trans (if_neg h)
  · exact (level_setLine l k s).trans (if_neg h)

theorem level_sample (s : State) (k : Line) : level (sample s).2 k = level s k := by
  rw [sample_eq]
  cases k <;> rfl

/-- A micro-step leaves alone the lines it does not write. -/
theorem level_perform_of_not_driven {m : MicroStep} {k : Line} (h : k ∉ drivenLine m) (s : State) :
    level (perform m s) k = level s k := by
  cases m with
  | setLine l => exact (level_setLine l k s).trans (if_neg fun hk : k = l => h (congrArg some hk.symm))
  | clrLine l => exact (level_clrLine l k s).trans (if_neg fun hk : k = l => h (congrArg some hk.symm))
  | driveBit i => exact level_writeLine_of_ne (fun hk : k = .tdi => h (congrArg some hk.symm)) _ s
  | restoreTclk => exact level_writeLine_of_ne (fun hk : k = .tdi => h (congrArg some hk.symm)) _ s
  | scanTdo | sampleBit => rw [← level_sample s k]; cases k <;> rfl
  | delayUs | delayMs | saveTclk | loadShift | countBit | storeResult => cases k <;> rfl

/-- The lines that the micro-steps of a command write. -/
def drivenLines : Instr → List Line
  | .clrTms | .setTms => [.tms]
  | .clrTdi | .setTdi | .clrTclk | .setTclk => [.tdi]
  | .clrTck | .setTck => [.tck]
  | .clrRst | .setRst => [.rst]
  | .clrTst | .setTst => [.tst]
  | .scanTdo | .delayUs _ | .delayMs _ => []
  | .shift8 _ | .shift16 _ | .drShift16 _ | .irShift _ | .resetTap => [.tms, .tdi, .tck]

theorem drivenLine_shiftSteps (f : ShiftFormat) (d : Half) :
    ∀ m ∈ shiftSteps f d, ∀ l ∈ drivenLine m, l ∈ [Line.tms, .tdi, .tck] := by
  have hbody : ∀ m ∈ shiftBody f, ∀ l ∈ drivenLine m, l ∈ [Line.tms, .tdi, .tck] := by
    cases f <;> decide
  rw [shiftSteps_eq_load]
  exact List.forall_mem_cons.mpr ⟨nofun, List.forall_mem_cons.mpr ⟨nofun, hbody⟩⟩

theorem drivenLine_drPrologue : ∀ m ∈ drPrologue, ∀ l ∈ drivenLine m, l ∈ [Line.tms, .tdi, .tck] := by decide

theorem drivenLine_irPrologue : ∀ m ∈ irPrologue, ∀ l ∈ drivenLine m, l ∈ [Line.tms, .tdi, .tck] := by decide

theorem drivenLine_commandSteps (i : Instr) : ∀ m ∈ commandSteps i, ∀ l ∈ drivenLine m, l ∈ drivenLines i := by
  cases i with
  | clrTms | setTms | clrTdi | setTdi | clrTck | setTck | clrTclk | setTclk | clrRst | setRst | clrTst | setTst | scanTdo
  | resetTap => decide
  | delayUs n | delayMs n => exact List.forall_mem_singleton.mpr nofun
  | shift8 d | shift16 d => exact drivenLine_shiftSteps _ d
  | drShift16 d => exact List.forall_mem_append.mpr ⟨drivenLine_drPrologue, drivenLine_shiftSteps _ d⟩
  | irShift d => exact List.forall_mem_append.mpr ⟨drivenLine_irPrologue, drivenLine_shiftSteps _ d⟩

/-! The column 'Written by' of the five lines, but for the restore of TDI by a shift. -/

theorem tms_mem_drivenLines_iff (i : Instr) :
    .tms ∈ drivenLines i ↔ i ∈ ([.setTms, .clrTms, .resetTap] : List Instr) ∨ containsShift i = true := by
  cases i <;> simp [drivenLines, containsShift]

theorem tdi_mem_drivenLines_iff (i : Instr) :
    .tdi ∈ drivenLines i ↔
      i ∈ ([.setTdi, .clrTdi, .setTclk, .clrTclk, .resetTap] : List Instr) ∨ containsShift i = true := by
  cases i <;> simp [drivenLines, containsShift]

theorem tck_mem_drivenLines_iff (i : Instr) :
    .tck ∈ drivenLines i ↔ i ∈ ([.setTck, .clrTck, .resetTap] : List Instr) ∨ containsShift i = true := by
  cases i <;> simp [drivenLines, containsShift]

theorem rst_mem_drivenLines_iff (i : Instr) : .rst ∈ drivenLines i ↔ i ∈ ([.setRst, .clrRst] : List Instr) := by
  cases i <;> simp [drivenLines]

theorem tst_mem_drivenLines_iff (i : Instr) : .tst ∈ drivenLines i ↔ i ∈ ([.setTst, .clrTst] : List Instr) := by
  cases i <;> simp [drivenLines]

/-- The registers that only a shift writes (R25, R33). -/
def shiftRegisters (s : State) : Bool × Half × Half × BitVec 5 := (s.tclkLatch, s.so, s.si, s.cnt)

theorem perform_shiftRegisters {m : MicroStep} (h : isShiftStep m = false) (s : State) :
    shiftRegisters (perform m s) = shiftRegisters s := by
  cases m with
  | setLine l | clrLine l => cases l <;> simp [perform, shiftRegisters]
  | scanTdo => simp [perform, sampleToResult, sample_eq, shiftRegisters]
  | delayUs | delayMs => rfl
  | saveTclk | loadShift | driveBit | sampleBit | countBit | restoreTclk | storeResult => cases h

/-- Outside a shift only a sample writes `result` (R31). -/
theorem perform_result {m : MicroStep} (h : isShiftStep m = false) (hsample : m ≠ .scanTdo) (s : State) :
    (perform m s).result = s.result := by
  cases m with
  | setLine l | clrLine l => cases l <;> simp [perform]
  | scanTdo => exact absurd rfl hsample
  | delayUs | delayMs => rfl
  | saveTclk | loadShift | driveBit | sampleBit | countBit | restoreTclk | storeResult => cases h

theorem isShiftStep_of_not_containsShift {i : Instr} (h : containsShift i = false) :
    ∀ m ∈ commandSteps i, isShiftStep m = false := by
  obtain ⟨-, hno⟩ | ⟨hshift, -⟩ := commandSteps_cases i
  · exact hno
  · cases h.symm.trans hshift

theorem scanTdo_not_mem_commandSteps {i : Instr} (hi : i ≠ .scanTdo) (h : containsShift i = false) :
    .scanTdo ∉ commandSteps i := by
  cases i with
  | scanTdo => exact absurd rfl hi
  | clrTms | setTms | clrTdi | setTdi | clrTck | setTck | clrTclk | setTclk | clrRst | setRst | clrTst | setTst
  | resetTap => decide
  | delayUs n | delayMs n => simp [commandSteps, delayUsSteps, delayMsSteps]
  | shift8 | shift16 | drShift16 | irShift => cases h

/-- Only `SET_TCK`, `RESET_TAP` and the commands with a shift set TCK (R28). -/
theorem set_tck_not_mem_commandSteps {i : Instr} (hi : i ∉ ([.setTck, .resetTap] : List Instr))
    (h : containsShift i = false) : .setLine .tck ∉ commandSteps i := by
  obtain rfl | hclr := eq_or_ne i .clrTck
  · decide
  · have htck : .tck ∉ drivenLines i := by
      rw [tck_mem_drivenLines_iff]
      simp_all
    exact fun hset => htck (drivenLine_commandSteps i _ hset .tck rfl)

/-- Settles O34: by the micro-steps of the command, which write only what the column allows; a shift restores TDI (O22). -/
theorem onlyTheNamedCommandsWriteEachRegister : Obligations.OnlyTheNamedCommandsWriteEachRegister := by
  intro i s t hrun
  obtain rfl : t = { performAll (commandSteps i) s with busy := false, micro := [] } := by
    rw [exec_eq, runCommand_eq] at hrun
    exact (Host.Outcome.next.inj hrun).symm
  have line {l : Line} (hl : l ∉ drivenLines i) : level (performAll (commandSteps i) s) l = level s l :=
    performAll_keeps (read := (level · l))
      (fun m hm => level_perform_of_not_driven fun hd => hl (drivenLine_commandSteps i m hm l hd)) s
  refine ⟨fun hi hs => line (l := .tms) ?tms, fun hi => ?tdi, fun hi hs => line (l := .tck) ?tck,
    fun hi => line (l := .rst) ?rst, fun hi => line (l := .tst) ?tst, fun hs => ?shiftRegisters, fun hi hs => ?tap,
    fun hi hs => ?result, performAll_err _ s, performAll_hostQueue _ s, performAll_hostReads _ s⟩
  case tms => simp [tms_mem_drivenLines_iff, hi, hs]
  case tdi =>
    cases hs : containsShift i with
    | false => exact line (l := .tdi) (by simp [tdi_mem_drivenLines_iff, hi, hs])
    | true =>
      obtain ⟨restores, -⟩ := tclkIsPreservedAcrossEveryShift
      exact (restores i s _ hs hrun).1
  case tck => simp [tck_mem_drivenLines_iff, hi, hs]
  case rst => simp [rst_mem_drivenLines_iff, hi]
  case tst => simp [tst_mem_drivenLines_iff, hi]
  case shiftRegisters =>
    have hkeeps : shiftRegisters (performAll (commandSteps i) s) = shiftRegisters s :=
      performAll_keeps (fun m hm => perform_shiftRegisters (isShiftStep_of_not_containsShift hs m hm)) s
    simpa [shiftRegisters] using hkeeps
  case tap => exact performAll_tap_of_no_set_tck (set_tck_not_mem_commandSteps hi hs) s
  case result =>
    exact performAll_keeps (read := State.result) (fun m hm => perform_result (isShiftStep_of_not_containsShift hs m hm)
      fun hsample => scanTdo_not_mem_commandSteps hi hs (hsample ▸ hm)) s

end Sys2Proof.Machine
end

section
/-! What decides nothing (spec/10_state.md R20, R25, R30, R33): outside a shift no micro-step reads the registers named here but to
write them again, and a shift loads its own before it reads them. -/

namespace Sys2Proof.Machine

/-- The registers whose old values decide nothing. -/
structure Hidden where
  tap : Tap
  result : Half
  tclkLatch : Bool
  err : Bool
  so : Half
  si : Half
  cnt : BitVec 5

/-- The state with other values in these registers. -/
def setHidden (h : Hidden) (s : State) : State :=
  { s with
    tap := h.tap
    result := h.result
    tclkLatch := h.tclkLatch
    err := h.err
    so := h.so
    si := h.si
    cnt := h.cnt }

/-- What the state holds in these registers. -/
def hiddenOf (s : State) : Hidden := ⟨s.tap, s.result, s.tclkLatch, s.err, s.so, s.si, s.cnt⟩

/-- The two states differ only in the registers that decide nothing. -/
def SameButHidden (s s' : State) : Prop := ∃ h : Hidden, s' = setHidden h s

theorem perform_sameButHidden {m : MicroStep} (hm : isShiftStep m = false) {s s' : State} (h : SameButHidden s s') :
    SameButHidden (perform m s) (perform m s') := by
  obtain ⟨h, rfl⟩ := h
  refine ⟨hiddenOf (perform m (setHidden h s)), ?_⟩
  cases m with
  | setLine l | clrLine l => cases l <;> simp [perform, setHidden, hiddenOf]
  | scanTdo => simp [perform, sampleToResult, sample_eq, tdoLevel, setHidden, hiddenOf]
  | delayUs | delayMs => rfl
  | saveTclk | loadShift | driveBit | sampleBit | countBit | restoreTclk | storeResult => cases hm

theorem performAll_sameButHidden {ms : List MicroStep} (hms : ∀ m ∈ ms, isShiftStep m = false) {s s' : State}
    (h : SameButHidden s s') : SameButHidden (performAll ms s) (performAll ms s') := by
  induction ms generalizing s s' with
  | nil => exact h
  | cons m ms ih =>
    obtain ⟨hm, hms⟩ := List.forall_mem_cons.mp hms
    exact ih hms (perform_sameButHidden hm h)

/-- What a shift writes: the registers that agree after it. -/
def shiftResults (s : State) : Half × Bool × Half × Half × BitVec 5 := (s.result, s.tclkLatch, s.so, s.si, s.cnt)

/-- A shift reads none of these registers as it found them. -/
theorem afterShift_sameButHidden (f : ShiftFormat) (d : Half) {s s' : State} (h : SameButHidden s s') :
    SameButHidden (afterShift f d s) (afterShift f d s') ∧
      shiftResults (afterShift f d s') = shiftResults (afterShift f d s) := by
  obtain ⟨h, rfl⟩ := h
  exact ⟨⟨hiddenOf (afterShift f d (setHidden h s)), rfl⟩, rfl⟩

/-- Runs of a command from states that differ only in these registers end in such states, and agree in what a shift writes. -/
theorem exec_sameButHidden (i : Instr) {s s' : State} (h : SameButHidden s s') :
    ∃ t t' : State, exec i s = .next t ∧ exec i s' = .next t' ∧ SameButHidden t t' ∧
      (containsShift i = true → shiftResults t' = shiftResults t) := by
  obtain ⟨hs, hno⟩ | ⟨-, prologue, f, d, hsteps, hno⟩ := commandSteps_cases i
  · obtain ⟨h', ht⟩ := performAll_sameButHidden hno h
    refine ⟨_, _, exec_eq i s, exec_eq i s', ⟨h', ?_⟩, fun hs' => by cases hs.symm.trans hs'⟩
    rw [runCommand_eq, runCommand_eq, ht]
    rfl
  · obtain ⟨hsame, hresults⟩ := afterShift_sameButHidden f d (performAll_sameButHidden hno h)
    exact ⟨_, _, exec_endingInShift hsteps s, exec_endingInShift hsteps s', hsame, fun _ => hresults⟩

/-- Settles O35: the two runs end in states that differ only in these registers, with `err` as each found it (O33). -/
theorem hiddenRegistersDecideNothing : Obligations.HiddenRegistersDecideNothing := by
  intro i s q r a b l e c
  obtain ⟨t, t', hrun, hrun', ⟨h, rfl⟩, hresults⟩ :=
    exec_sameButHidden i (s := s) ⟨⟨q, r, l, e, a, b, c⟩, rfl⟩
  have herr : h.err = e := by
    obtain ⟨u, hu, -, herr, -⟩ := everyCommandRunsToItsEnd i (setHidden ⟨q, r, l, e, a, b, c⟩ s)
    obtain rfl := Host.Outcome.next.inj (hrun'.symm.trans hu)
    exact herr
  refine ⟨t, h.tap, h.result, h.so, h.si, h.tclkLatch, h.cnt, hrun, herr ▸ hrun', fun hs => ?agree⟩
  case agree => simpa [shiftResults, setHidden] using hresults hs

end Sys2Proof.Machine
end
